-- ==== Sys2Proof/Word.lean ====
section
/-! DEFINITION. The word types of the machine: 64-bit general registers (R21), 32-bit registers and instruction
words (R26, R70), bytes of the program text (R61). -/

namespace Sys2Proof

/-- A 64-bit value: a general register, the program counter, a 64-bit coprocessor 0 register (R18, R21, R23, R26). -/
abbrev Word := BitVec 64

/-- A 32-bit value: an instruction word (R70) or a 32-bit coprocessor 0 register (R26). -/
abbrev Half := BitVec 32

/-- One byte of the byte-addressed program text (R61). -/
abbrev Byte := BitVec 8

end Sys2Proof
end

