-- ==== Sys2Proof/Config.lean ====
section
/-! DEFINITION. What an implementation fixes (R7, R12: plain data, carried unchanged by the state) and the values the
spec leaves free at a step (`draw(n)` of R18: constants with no body, applied to the state's draw counter). -/

namespace Sys2Proof

/-- The two coprocessor 0 contexts, which are also the two places an exception can be taken in (R16, R26, R208). -/
inductive Ctx where
  | root
  | guest
deriving DecidableEq, Repr

/-- The class of a pair `(rd, sel)` in the guest context (R11). -/
inductive RegClass where
  | replicated
  | reservedArchImpl
  | notAvailable
  | shared
  | absent
deriving DecidableEq, Repr

/-- The width of a coprocessor 0 register (R12, R26). -/
inductive RegWidth where
  | w32
  | w64
deriving DecidableEq, Repr

/-- One entry of `GuestRegTable` (R12). `visible` and `writable` hold 1 for a bit the guest sees and a bit a move-to
instruction changes. -/
structure GuestRegInfo where
  cls : RegClass
  width : RegWidth
  extended : Bool
  xpaOnly : Bool
  visible : Word
  writable : Word
deriving DecidableEq, Repr

/-- A row of `GuestRegTable` with the pair it stands for (R12). -/
structure GuestRegRow where
  rd : Nat
  sel : Nat
  info : GuestRegInfo
deriving DecidableEq, Repr

/-- The TLB parameters of one context (R7). `ftlbSetOf` lists, for each FTLB index from `vtlbEntries` up, the indices of
the set it addresses (`FtlbSet`); `ftlbMask` is the `PageMask.Mask` value of the FTLB's page size (R35). -/
structure CtxConfig where
  vtlbEntries : Nat
  ftlbWays : Nat
  ftlbSets : Nat
  ftlbSetOf : List (List Nat)
  ftlbMask : BitVec 16
deriving DecidableEq, Repr

/-- The parameters of R7, R12, R30, R34, R35, R39, R62 and entry U17. A parameter that R7 marks *state* (`Config.MT`,
`Config3.VZ`, `Config3.LPA`, `Config4.IE`, `PageGrain.ELPA`, `GuestCtl0.G1`) is held in its register's image only. `multiMatchDetect` and `ftlbWriteCheck` say what an
implementation does; no rule reads them, since R135 and R140 admit every outcome whatever they hold (assumption 13). -/
structure Config where
  bigEndian : Bool
  root : CtxConfig
  guest : CtxConfig
  segBits : Nat
  asidBits : Nat
  maskBits : Nat
  guestIdBits : Nat
  paBits : Nat
  rixiSupported : Bool
  tlbMaskOnWrite : Bool
  tlbMaskOnRead : Bool
  tlbReadHighBitsAny : Bool
  multiMatchDetect : Bool
  ftlbWriteCheck : Bool
  guestRegs : List GuestRegRow
deriving DecidableEq, Repr

/-- What an implementation may do with a TLB write outside the premise `NoTlbConflict` (R140, D24). -/
inductive WriteOutcome where
  | plain
  | invalidateOthers
  | machineCheck
deriving DecidableEq, Repr, Inhabited

/-! ### Free values: no body, so that nothing can be proved of one of them. -/

/-- Bits 30:0 of `Index` after a probe that finds nothing (R32, R135, U15, U25). -/
opaque Config.freeMissIndex : Nat → BitVec 31

/-- `Guest.Count` at the moment a move reads it, before it is cut to the register's width (R221, U34). -/
opaque Config.freeCount : Nat → Word

/-- `Guest.Random` at the moment a move reads it (R33, R47). -/
opaque Config.freeRandomRead : Nat → Half

/-- `Random` after TLBGWR or TLBWR (R138, R166). -/
opaque Config.freeRandomAfter : Nat → Half

/-- The entry TLBGWR or TLBWR addresses, before it is brought into the admitted range (R33, R138, R166, U29, U30). -/
opaque Config.freeRandomEntry : Nat → Nat

/-- Which of several matching entries a probe reports, before it is brought into range (R135, D23). -/
opaque Config.freeHitChoice : Nat → Nat

/-- Whether a probe that finds several entries takes a Machine Check (R135, D23, U27). -/
opaque Config.freeProbeMachineCheck : Nat → Bool

/-- Whether a probe sees the FTLB entry of a given index although it does not sit in the set its VPN2 selects (R135). -/
opaque Config.freeProbeSees : Nat → Nat → Bool

/-- The outcome of a TLB write outside the premise `NoTlbConflict` (R140, D24, U20). -/
opaque Config.freeWriteOutcome : Nat → WriteOutcome

/-- Which other entries a conflicting TLB write marks invalid, by index (R140, D24). -/
opaque Config.freeInvalidated : Nat → Nat → Bool

/-- Bits 63:30 of `EntryLo0` after a TLB read, where `tlbReadHighBitsAny` holds (U17). -/
opaque Config.freeHighBits0 : Nat → BitVec 34

/-- Bits 63:30 of `EntryLo1` after a TLB read, where `tlbReadHighBitsAny` holds (U17). -/
opaque Config.freeHighBits1 : Nat → BitVec 34

/-- Whether a VPN2 is consistent with an FTLB index of a context: fixed by the implementation, not defined by the source
(R140, N18). -/
opaque Config.ftlbVpnConsistent : Ctx → BitVec 49 → Nat → Bool

/-! ### The configuration at reset: configuration `T1` of `95_test_vectors.md` (a DESIGN CHOICE, assumption 3). -/

/-- A `Replicated` row of the table (R12). -/
def Config.replicatedRow (rd sel : Nat) (width : RegWidth) (extended xpaOnly : Bool) (writable : Word) : GuestRegRow :=
  { rd := rd, sel := sel,
    info := { cls := .replicated, width := width, extended := extended, xpaOnly := xpaOnly,
              visible := BitVec.allOnes 64, writable := writable } }

/-- A `Shared` row for `WatchHi` with the visible mask of configuration `T1`. -/
def Config.watchHiRow (sel : Nat) : GuestRegRow :=
  { rd := 19, sel := sel,
    info := { cls := .shared, width := .w32, extended := false, xpaOnly := false,
              visible := 0x40000FFF#64, writable := 0xFFFFFFFF#64 } }

/-- The rows of `GuestRegTable` at reset: those of configuration `T1`, and the registers R28 and R31 give the guest. -/
def Config.resetGuestRegs : List GuestRegRow :=
  [ Config.replicatedRow 0 0 .w32 false false 0xFFFFFFFF#64,
    Config.replicatedRow 1 0 .w32 false false 0#64,
    Config.replicatedRow 2 0 .w64 true true (BitVec.allOnes 64),
    Config.replicatedRow 3 0 .w64 true true (BitVec.allOnes 64),
    Config.replicatedRow 5 0 .w32 false false 0xFFFFFFFF#64,
    Config.replicatedRow 5 1 .w32 false false 0xFFFFFFFF#64,
    Config.replicatedRow 6 0 .w32 false false 0xFFFFFFFF#64,
    Config.replicatedRow 9 0 .w32 false false 0#64,
    Config.replicatedRow 10 0 .w64 false false (BitVec.allOnes 64),
    Config.replicatedRow 12 0 .w32 false false 0xFFFFFFFF#64,
    Config.replicatedRow 16 0 .w32 false false 0#64,
    Config.replicatedRow 16 1 .w32 false false 0#64,
    Config.replicatedRow 16 3 .w32 false false 0#64,
    Config.replicatedRow 16 4 .w32 false false 0#64 ] ++
  (List.range 8).map Config.watchHiRow ++
  [ { rd := 22, sel := 0,
      info := { cls := .reservedArchImpl, width := .w32, extended := false, xpaOnly := false,
                visible := 0#64, writable := 0#64 } } ]

/-- The configuration the reset state carries. -/
def Config.reset : Config :=
  { bigEndian := true
    root := { vtlbEntries := 16, ftlbWays := 0, ftlbSets := 0, ftlbSetOf := [], ftlbMask := 0#16 }
    guest := { vtlbEntries := 4, ftlbWays := 0, ftlbSets := 0, ftlbSetOf := [], ftlbMask := 0#16 }
    segBits := 40, asidBits := 8, maskBits := 16, guestIdBits := 8, paBits := 40
    rixiSupported := true, tlbMaskOnWrite := true, tlbMaskOnRead := true, tlbReadHighBitsAny := false
    multiMatchDetect := false, ftlbWriteCheck := false
    guestRegs := Config.resetGuestRegs }

end Sys2Proof
end

