-- ==== Sys2Proof/Syntax.lean ====
section
/-! DEFINITION. The instructions: one constructor for each of the eighteen rows of `spec/opcode_table.json`, in the
table's order. Operands are the numbers the word carries (R73); which numbers a word can carry is `Instr.wf`. -/

namespace Sys2Proof

/-- The eighteen instructions in scope (R5). `rt` numbers a general register, the pair `rd`, `sel` a guest
coprocessor 0 register (R71, R73); the twelve TLB instructions have no operand field (R72). -/
inductive Instr where
  | dmfgc0 (rt rd sel : Nat)
  | dmtgc0 (rt rd sel : Nat)
  | mfgc0 (rt rd sel : Nat)
  | mfhgc0 (rt rd sel : Nat)
  | mtgc0 (rt rd sel : Nat)
  | mthgc0 (rt rd sel : Nat)
  | tlbginv
  | tlbginvf
  | tlbgp
  | tlbgr
  | tlbgwi
  | tlbgwr
  | tlbinv
  | tlbinvf
  | tlbp
  | tlbr
  | tlbwi
  | tlbwr
deriving DecidableEq, Repr

end Sys2Proof
end

