-- ==== Sys2Proof/WellFormed.lean ====
section
/-! DEFINITION. Which instruction terms an instruction word can carry (R71, R73, R78). -/

namespace Sys2Proof

/-- `rt` is a 5-bit number (R71). -/
def rtOk (rt : Nat) : Bool := decide (rt < 32)

/-- `rd` is a 5-bit number (R71). -/
def rdOk (rd : Nat) : Bool := decide (rd < 32)

/-- `sel` is a 3-bit number (R71). -/
def selOk (sel : Nat) : Bool := decide (sel < 8)

/-- The operands of a format `GM` word: every value of the three fields is legal, and no other (R71, R78). -/
def gmOk (rt rd sel : Nat) : Bool := rtOk rt && rdOk rd && selOk sel

/-- An instruction that some word encodes (R71, R72, R78). -/
def Instr.wf : Instr → Bool
  | .dmfgc0 rt rd sel => gmOk rt rd sel
  | .dmtgc0 rt rd sel => gmOk rt rd sel
  | .mfgc0 rt rd sel => gmOk rt rd sel
  | .mfhgc0 rt rd sel => gmOk rt rd sel
  | .mtgc0 rt rd sel => gmOk rt rd sel
  | .mthgc0 rt rd sel => gmOk rt rd sel
  | .tlbginv => true
  | .tlbginvf => true
  | .tlbgp => true
  | .tlbgr => true
  | .tlbgwi => true
  | .tlbgwr => true
  | .tlbinv => true
  | .tlbinvf => true
  | .tlbp => true
  | .tlbr => true
  | .tlbwi => true
  | .tlbwr => true

end Sys2Proof
end

