-- ==== Sys2Proof/Decode.lean ====
section
/-! DEFINITION. Reading an instruction from a word and from bytes (R70 to R78), and writing its word (R87). -/

namespace Sys2Proof

/-! ### Byte order of an instruction word (R62: an open parameter of the fetch) -/

/-- The word four bytes form, the first at the lowest address. -/
def bytesToWord (big : Bool) (b0 b1 b2 b3 : Byte) : Half :=
  if big then b0 ++ b1 ++ b2 ++ b3 else b3 ++ b2 ++ b1 ++ b0

/-- The bytes of a word, the lowest address first. -/
def wordToBytes (big : Bool) (w : Half) : List Byte :=
  if big then [w.extractLsb' 24 8, w.extractLsb' 16 8, w.extractLsb' 8 8, w.extractLsb' 0 8]
  else [w.extractLsb' 0 8, w.extractLsb' 8 8, w.extractLsb' 16 8, w.extractLsb' 24 8]

/-! ### Decoding -/

/-- Why bytes are no instruction of this machine. -/
inductive DecodeError where
  /-- Fewer than the four bytes every instruction has (R70). -/
  | truncated
  /-- The verdict `NotInSpec` of R77: the word matches no row of the opcode table. -/
  | notInSpec (w : Half)
deriving DecidableEq, Repr

/-- Bits `lo + len - 1` down to `lo` of a word, as an unsigned number (R13, R73). -/
def wordField (w : Half) (lo len : Nat) : Nat := w.toNat / 2 ^ lo % 2 ^ len

/-- The format `GM` row that `sub = w[10:8]` selects (R74). -/
def decodeGm (sub rt rd sel : Nat) : Option Instr :=
  match sub with
  | 0 => some (.mfgc0 rt rd sel)
  | 1 => some (.dmfgc0 rt rd sel)
  | 2 => some (.mtgc0 rt rd sel)
  | 3 => some (.dmtgc0 rt rd sel)
  | 4 => some (.mfhgc0 rt rd sel)
  | 6 => some (.mthgc0 rt rd sel)
  | _ => none

/-- The format `CO` row that `funct = w[5:0]` selects (R75). -/
def decodeCo (funct : Nat) : Option Instr :=
  match funct with
  | 1 => some .tlbr
  | 2 => some .tlbwi
  | 3 => some .tlbinv
  | 4 => some .tlbinvf
  | 6 => some .tlbwr
  | 8 => some .tlbp
  | 9 => some .tlbgr
  | 10 => some .tlbgwi
  | 11 => some .tlbginv
  | 12 => some .tlbginvf
  | 14 => some .tlbgwr
  | 16 => some .tlbgp
  | _ => none

/-- The instruction of a word, if it is one of the eighteen (R71, R72, R74 to R77). -/
def decodeRow (w : Half) : Option Instr :=
  if wordField w 26 6 = 0b010000 then
    if wordField w 21 5 = 0b00011 ∧ wordField w 3 5 = 0 then
      decodeGm (wordField w 8 3) (wordField w 16 5) (wordField w 11 5) (wordField w 0 3)
    else if wordField w 25 1 = 1 ∧ wordField w 6 19 = 0 then decodeCo (wordField w 0 6)
    else none
  else none

/-- Decode a word: total, rejecting by name (R77). -/
def decodeWord (w : Half) : Except DecodeError Instr :=
  match decodeRow w with
  | some i => .ok i
  | none => .error (.notInSpec w)

/-- Decode the first instruction of some bytes and give back the rest (R70: always four bytes). -/
def decode (big : Bool) : List Byte → Except DecodeError (Instr × List Byte)
  | b0 :: b1 :: b2 :: b3 :: rest =>
    match decodeWord (bytesToWord big b0 b1 b2 b3) with
    | .ok i => .ok (i, rest)
    | .error e => .error e
  | _ => .error .truncated

/-- The instruction the decoder reads from an instruction whose bits are `w`, laid out in the byte order of the reset
configuration; bits from `nbits` up are 0. -/
def decodeTableWord (nbits w : Nat) : Option Instr :=
  match decode Config.reset.bigEndian (wordToBytes Config.reset.bigEndian (BitVec.ofNat 32 (w % 2 ^ nbits))) with
  | .ok (i, _) => some i
  | .error _ => none

/-! ### Encoding -/

/-- A format `GM` word (R87). -/
def encodeGm (sub rt rd sel : Nat) : Half :=
  BitVec.ofNat 32 (0x40600000 + rt * 2 ^ 16 + rd * 2 ^ 11 + sub * 2 ^ 8 + sel)

/-- A format `CO` word (R72, R75). -/
def encodeCo (funct : Nat) : Half := BitVec.ofNat 32 (0x42000000 + funct)

/-- The word of a well-formed instruction (R74, R75, R87). -/
def encode : Instr → Half
  | .dmfgc0 rt rd sel => encodeGm 1 rt rd sel
  | .dmtgc0 rt rd sel => encodeGm 3 rt rd sel
  | .mfgc0 rt rd sel => encodeGm 0 rt rd sel
  | .mfhgc0 rt rd sel => encodeGm 4 rt rd sel
  | .mtgc0 rt rd sel => encodeGm 2 rt rd sel
  | .mthgc0 rt rd sel => encodeGm 6 rt rd sel
  | .tlbginv => encodeCo 11
  | .tlbginvf => encodeCo 12
  | .tlbgp => encodeCo 16
  | .tlbgr => encodeCo 9
  | .tlbgwi => encodeCo 10
  | .tlbgwr => encodeCo 14
  | .tlbinv => encodeCo 3
  | .tlbinvf => encodeCo 4
  | .tlbp => encodeCo 8
  | .tlbr => encodeCo 1
  | .tlbwi => encodeCo 2
  | .tlbwr => encodeCo 6

end Sys2Proof
end

