-- ==== Sys2Proof/Machine/Bits.lean ====
section
/-! DEFINITION. Bit fields: the slices and partial assignments of R13 and R18, shared by every register. -/

namespace Sys2Proof.Machine

/-- The `w`-bit value whose low `n` bits are 1. -/
def lowMask (w n : Nat) : BitVec w := BitVec.ofNat w (2 ^ n - 1)

/-- `v` with the bits of `f` in place of its bits `lo + len - 1` down to `lo` (an assignment to a field, R14). -/
def putField {w len : Nat} (v : BitVec w) (lo : Nat) (f : BitVec len) : BitVec w :=
  (v &&& ~~~((BitVec.allOnes len).setWidth w <<< lo)) ||| (f.setWidth w <<< lo)

/-- The bits of `new` where `k` is 1 and of `old` where it is 0 (the masked write of R102). -/
def mergeBits {w : Nat} (old new k : BitVec w) : BitVec w := (old &&& ~~~k) ||| (new &&& k)

/-- The low 32 bits of a doubleword, sign-extended (`sext_64(v[31:0])` of R105). -/
def sextLow (v : Word) : Word := (v.extractLsb' 0 32).signExtend 64

end Sys2Proof.Machine
end

