-- ==== Sys2Proof/Machine/State.lean ====
section
/-! DEFINITION. The state of the machine as plain data, the reasons a step can stop, and the state after reset
(R20, R21, R23, R26 to R47, R200, R210, R240). -/

namespace Sys2Proof.Machine

/-- A TLB entry (R45). `vpn2` has room for the largest `SEGBITS` (R39), `mask`, `asid` and `guestId` for the field
positions of R35, R39 and R30; `Config` says how many of the bits are implemented. -/
structure TlbEntry where
  mask : BitVec 16
  r : BitVec 2
  vpn2 : BitVec 49
  asid : BitVec 8
  g : Bool
  pfn0 : BitVec 24
  c0 : BitVec 3
  d0 : Bool
  v0 : Bool
  pfn1 : BitVec 24
  c1 : BitVec 3
  d1 : Bool
  v1 : Bool
  guestId : BitVec 8
  hardwareInvalid : Bool
deriving DecidableEq, Repr

/-- A coprocessor 0 context: the registers R28 names for both contexts, each its own field, and every other pair
`(rd, sel)` of R26 in `other`, keyed by `8 * rd + sel`, keys strictly rising, no entry holding 0. Each context holds its own
copy of a `Shared` register such as `WatchHi`, so a move to the guest's leaves the root's as it was: R44 leaves open
whether the two are one register (DESIGN CHOICE, unsafe: assumption 35). -/
structure Cp0 where
  index : Half
  random : Half
  entryLo0 : Word
  entryLo1 : Word
  pageMask : Half
  pageGrain : Half
  wired : Half
  count : Half
  entryHi : Word
  status : Half
  config : Half
  config1 : Half
  config3 : Half
  config4 : Half
  watchHi : Vector Half 8
  other : List (Nat × Word)
deriving DecidableEq, Repr

/-- The three exceptions the pages name (R200); Coprocessor Unusable carries the coprocessor's number (R209). -/
inductive ExcKind where
  | coprocessorUnusable (cop : Nat)
  | reservedInstruction
  | machineCheck
deriving DecidableEq, Repr

/-- The trap outcome of R210: which exception, the context that takes it (R208), the pc of the raising instruction. -/
structure Trap where
  kind : ExcKind
  takenIn : Ctx
  pc : Word
deriving DecidableEq, Repr

/-- Why the machine stops with a fault. -/
inductive Fault where
  /-- The trap outcome of R210: raised by every instruction, from its guards (R207), and as a Machine Check by the probes
  and the TLB writes (R135, R140). The run ends with the state as it was before the instruction, as R210 decides.
  Safe: nothing of an exception's entry or of a handler can be proved. -/
  | trap (t : Trap)
  /-- Raised by `step` when a byte of the instruction word at `pc` is not in the program text (R62, D11).
  Safe: hardware would go on with whatever is there. -/
  | noProgramText (pc : Word)
deriving DecidableEq, Repr

/-- Why a step has no next state without the machine having raised anything. All are safe: the hardware goes on in a way
the spec does not fix. -/
inductive Refusal where
  /-- Raised by an arm of `exec` whose instruction has no meaning yet. Safe. -/
  | notModelled (mnemonic : String)
  /-- Raised by `step` for a word that matches no row of the opcode table, the verdict `NotInSpec` of R77. Safe. -/
  | notInSpec (w : Half)
  /-- Raised by `step` at a `pc` that is not a multiple of 4 (R62). Safe. -/
  | pcMisaligned (pc : Word)
  /-- Raised by every instruction when the executing context's mode is decided by `Status.KSU = 3`, to which the spec
  gives no meaning (R204, U37). Safe. -/
  | modeHasNoMeaning
  /-- Raised by the guest moves: the guest context has no register `(rd, sel)` (R101, R102, U1, U3, U6 to U9). Safe. -/
  | noSuchGuestRegister (rd sel : Nat)
  /-- Raised by DMFGC0 and DMTGC0: the register is 32 bits wide (R103, R104, U2, U4). Safe. -/
  | guestRegisterIs32Bit (rd sel : Nat)
  /-- Raised by DMTGC0 and MTGC0: the destination is `Guest.Count` (R104, R107, U5, U8). Safe. -/
  | guestCountIsReadOnly
  /-- Raised by MFHGC0 and MTHGC0: the register is not extended by 32 bits (R106, R108, U7, U9). Safe. -/
  | guestRegisterNotExtended (rd sel : Nat)
  /-- Raised by MFHGC0 and MTHGC0: the register is extended for XPA and XPA is not enabled (R106, R108, U7, U9). Safe. -/
  | xpaNotEnabled (rd sel : Nat)
  /-- Raised by the TLB instructions: the context they work on has no TLB (R130, R160, U11, U13, U14). Safe. -/
  | noTlb
  /-- Raised by the TLB instructions: `Index` is not below the number of TLB entries (R131, R136, R137, R164, R165). Safe. -/
  | indexBeyondTlb
  /-- Raised by TLBGWR and TLBWR: the configuration admits no entry at all (R138, R166; only outside `Config.wf`). Safe. -/
  | noAdmittedEntry
deriving DecidableEq, Repr

/-- The state of the machine: R20's general registers, program counter, two coprocessor 0 contexts and two TLBs; the
root-only registers `GuestCtl0`, `GuestCtl1` and `Debug` (R28 to R30, R41); the program text (R62); the implementation's
parameters (R7), which no step changes; and `draws`, the model's own counter of completed instructions, from which the
free values of R18 are taken. -/
structure State where
  gpr : Vector Word 32
  pc : Word
  root : Cp0
  guest : Cp0
  guestCtl0 : Half
  guestCtl1 : Half
  debugReg : Half
  rootTlb : List TlbEntry
  guestTlb : List TlbEntry
  mem : List Host.Cell
  cfg : Config
  draws : Nat
deriving DecidableEq, Repr

/-- A TLB entry all of whose fields are 0. -/
def TlbEntry.zero : TlbEntry :=
  { mask := 0#16, r := 0#2, vpn2 := 0#49, asid := 0#8, g := false,
    pfn0 := 0#24, c0 := 0#3, d0 := false, v0 := false,
    pfn1 := 0#24, c1 := 0#3, d1 := false, v1 := false,
    guestId := 0#8, hardwareInvalid := false }

/-- A TLB entry marked invalid, every other field 0. -/
def TlbEntry.marked : TlbEntry := { TlbEntry.zero with hardwareInvalid := true }

/-- A context at reset: `Status` with ERL and BEV set, `Random` the last entry, the read-only configuration fields as
given, every other bit 0 (R240 leaves all of it unspecified; assumptions 4 and 5). -/
def Cp0.reset (random config config1 config3 config4 : Half) : Cp0 :=
  { index := 0#32, random := random, entryLo0 := 0#64, entryLo1 := 0#64, pageMask := 0#32, pageGrain := 0#32,
    wired := 0#32, count := 0#32, entryHi := 0#64, status := 0x00400004#32, config := config, config1 := config1,
    config3 := config3, config4 := config4, watchHi := Vector.replicate 8 0#32, other := [] }

/-- The machine right after reset: the launch R241 describes (root mode, `pc` at the reset vector), the configuration's
read-only fields (R48), and the model's own values for what the spec leaves unspecified (R240): all of `GuestCtl0` (GM, G1,
RAD), `GuestCtl1` and `Debug` 0 (assumption 4), every TLB entry marked invalid, so that the launch premise of R140 holds, and
the rest as assumptions 3, 4 and 5 name it. -/
def State.reset : State :=
  { gpr := Vector.replicate 32 0#64
    pc := 0xFFFFFFFFBFC00000#64
    root := Cp0.reset 15#32 0x00000080#32 0x1E000000#32 0x00800000#32 0x40000000#32
    guest := Cp0.reset 3#32 0x00000080#32 0x06000000#32 0x00000000#32 0x40000000#32
    guestCtl0 := 0#32
    guestCtl1 := 0#32
    debugReg := 0#32
    rootTlb := List.replicate 16 TlbEntry.marked
    guestTlb := List.replicate 4 TlbEntry.marked
    mem := []
    cfg := Config.reset
    draws := 0 }

end Sys2Proof.Machine
end

