-- ==== Sys2Proof/Machine/Fields.lean ====
section
/-! DEFINITION. The fields of the coprocessor 0 registers (R29 to R43: a field is a slice of its register's image, R27)
and the two contexts' registers, TLBs and parameters (R16). -/

namespace Sys2Proof.Machine

/-! ### Contexts -/

/-- The coprocessor 0 registers of a context (R26). -/
def State.cp0 (s : State) : Ctx → Cp0
  | .root => s.root
  | .guest => s.guest

/-- `s` with the registers of one context replaced. -/
def State.setCp0 (s : State) (c : Ctx) (k : Cp0) : State :=
  match c with
  | .root => { s with root := k }
  | .guest => { s with guest := k }

/-- The TLB of a context (R46). -/
def State.tlb (s : State) : Ctx → List TlbEntry
  | .root => s.rootTlb
  | .guest => s.guestTlb

/-- `s` with the TLB of one context replaced. -/
def State.setTlb (s : State) (c : Ctx) (t : List TlbEntry) : State :=
  match c with
  | .root => { s with rootTlb := t }
  | .guest => { s with guestTlb := t }

/-- The TLB parameters of a context (R7). -/
def ctxConfig (cfg : Config) : Ctx → CtxConfig
  | .root => cfg.root
  | .guest => cfg.guest

/-- `TLBEntries`: VTLB and FTLB as one array (R7, R46). -/
def tlbEntries (k : CtxConfig) : Nat := k.vtlbEntries + k.ftlbWays * k.ftlbSets

/-- `ctx.TLBEntries` of the state's configuration. -/
def State.tlbEntries (s : State) (c : Ctx) : Nat := Machine.tlbEntries (ctxConfig s.cfg c)

/-- `ctx.VTLBEntries` of the state's configuration. -/
def State.vtlbEntries (s : State) (c : Ctx) : Nat := (ctxConfig s.cfg c).vtlbEntries

/-! ### Configuration registers -/

/-- `Config.MT`, bits 9:7 (R42). -/
def Cp0.mt (k : Cp0) : Nat := (k.config.extractLsb' 7 3).toNat

/-- The context has a TLB of one of the two kinds the pages know (R7, R130). -/
def Cp0.hasTlb (k : Cp0) : Bool := k.mt == 1 || k.mt == 4

/-- `Config3.VZ`, bit 23 (R43). -/
def Cp0.vz (k : Cp0) : Bool := k.config3.getLsbD 23

/-- `Config3.LPA`, bit 7 (R43). -/
def Cp0.lpa (k : Cp0) : Bool := k.config3.getLsbD 7

/-- `Config4.IE`, bits 30:29 (R43). -/
def Cp0.ie (k : Cp0) : Nat := (k.config4.extractLsb' 29 2).toNat

/-- The invalidate instructions, `EntryHi.EHINV` and `hardware_invalid` exist: `Config4.IE >= 2` (R8, D14). -/
def Cp0.hasInvalid (k : Cp0) : Bool := decide (2 ≤ k.ie)

/-- `PageGrain.ELPA`, bit 29 (R36). -/
def Cp0.elpa (k : Cp0) : Bool := k.pageGrain.getLsbD 29

/-- `XpaEnabled()`: the root context's `Config3.LPA` and `PageGrain.ELPA` (R110). -/
def State.xpaEnabled (s : State) : Bool := s.root.lpa && s.root.elpa

/-! ### Status, Debug, GuestCtl0, GuestCtl1 -/

/-- `Status.CU0`, bit 28 (R40). -/
def Cp0.cu0 (k : Cp0) : Bool := k.status.getLsbD 28

/-- `Status.PX`, bit 23 (R40). -/
def Cp0.px (k : Cp0) : Bool := k.status.getLsbD 23

/-- `Status.UX`, bit 5 (R40). -/
def Cp0.ux (k : Cp0) : Bool := k.status.getLsbD 5

/-- `Status.KSU`, bits 4:3 (R40). -/
def Cp0.ksu (k : Cp0) : Nat := (k.status.extractLsb' 3 2).toNat

/-- `Status.ERL`, bit 2 (R40). -/
def Cp0.erl (k : Cp0) : Bool := k.status.getLsbD 2

/-- `Status.EXL`, bit 1 (R40). -/
def Cp0.exl (k : Cp0) : Bool := k.status.getLsbD 1

/-- `Root.Debug.DM`, bit 30 (R41). -/
def State.dm (s : State) : Bool := s.debugReg.getLsbD 30

/-- `GuestCtl0.GM`, bit 31 (R29). -/
def State.gm (s : State) : Bool := s.guestCtl0.getLsbD 31

/-- `GuestCtl0.G1`, bit 22: GuestID is supported (R29). -/
def State.g1 (s : State) : Bool := s.guestCtl0.getLsbD 22

/-- `GuestCtl0.RAD`, bit 9 (R29). -/
def State.rad (s : State) : Bool := s.guestCtl0.getLsbD 9

/-- `GuestCtl1.ID`, bits 7:0, as far as `GuestIDBits` implements them (R30). -/
def State.id (s : State) : BitVec 8 := s.guestCtl1.extractLsb' 0 8 &&& lowMask 8 s.cfg.guestIdBits

/-- `GuestCtl1.RID`, bits 23:16, as far as `GuestIDBits` implements them (R30). -/
def State.rid (s : State) : BitVec 8 := s.guestCtl1.extractLsb' 16 8 &&& lowMask 8 s.cfg.guestIdBits

/-- `GuestCtl1.RID <- v` (R30). -/
def State.setRid (s : State) (v : BitVec 8) : State := { s with guestCtl1 := putField s.guestCtl1 16 v }

/-! ### EntryHi, EntryLo, PageMask -/

/-- `EntryHi.R`, bits 63:62 (R39). -/
def hiR (v : Word) : BitVec 2 := v.extractLsb' 62 2

/-- `EntryHi.VPN2`, bits `SEGBITS-1`:13 (R39). -/
def hiVpn2 (cfg : Config) (v : Word) : BitVec 49 := v.extractLsb' 13 49 &&& lowMask 49 (cfg.segBits - 13)

/-- `EntryHi.ASID`, bits 7:0 as far as `AsidBits` implements them (R39). -/
def hiAsid (cfg : Config) (v : Word) : BitVec 8 := v.extractLsb' 0 8 &&& lowMask 8 cfg.asidBits

/-- Bit 10 of `EntryHi`, where EHINV stands (R39). -/
def ehinvBit : Word := 0x400#64

/-- `EntryHi.EHINV` of a context: bit 10, present exactly when `Config4.IE >= 2` and reading 0 otherwise (R39, D14). -/
def Cp0.ehinv (k : Cp0) : Bool := k.hasInvalid && k.entryHi.getLsbD 10

/-- `EntryHi` with `EHINV = 1` and every other bit 0 (R136); where EHINV does not exist it stays 0 (D14). -/
def Cp0.invalidHi (k : Cp0) : Word := if k.hasInvalid then ehinvBit else 0#64

/-- `EntryLo.PFN`, bits 29:6 (R34). -/
def loPfn (v : Word) : BitVec 24 := v.extractLsb' 6 24

/-- `EntryLo.C`, bits 5:3 (R34). -/
def loC (v : Word) : BitVec 3 := v.extractLsb' 3 3

/-- `EntryLo.D`, bit 2 (R34). -/
def loD (v : Word) : Bool := v.getLsbD 2

/-- `EntryLo.V`, bit 1 (R34). -/
def loV (v : Word) : Bool := v.getLsbD 1

/-- `EntryLo.G`, bit 0 (R34). -/
def loG (v : Word) : Bool := v.getLsbD 0

/-- `PageMask.Mask`, bits 28:13 as far as `MaskBits` implements them (R35). -/
def pmMask (cfg : Config) (v : Half) : BitVec 16 := v.extractLsb' 13 16 &&& lowMask 16 cfg.maskBits

/-- `PageMask.Mask <- m`, the other bits of the register kept (R35, R136). -/
def putMask (v : Half) (m : BitVec 16) : Half := putField v 13 m

/-- `R ++ 0Fill ++ VPN2 ++ 0^5 ++ ASID` (R39, R136). -/
def makeHi (r : BitVec 2) (vpn2 : BitVec 49) (asid : BitVec 8) : Word := r ++ vpn2 ++ 0#5 ++ asid

/-- `PFN ++ C ++ D ++ V ++ G` under 34 given high bits (R34, R136). -/
def makeLo (high : BitVec 34) (pfn : BitVec 24) (c : BitVec 3) (d v g : Bool) : Word :=
  high ++ pfn ++ c ++ BitVec.ofBool d ++ BitVec.ofBool v ++ BitVec.ofBool g

end Sys2Proof.Machine
end

