-- ==== Sys2Proof/Machine/Flags.lean ====
section
/-! DEFINITION. The machine has no condition flag (R24): the bits that guard execution are status fields. This file
computes from them the modes and the two enables every instruction starts with (R202 to R206). -/

namespace Sys2Proof.Machine

/-- `IsGuestMode()` (R202). -/
def State.isGuestMode (s : State) : Bool := s.gm && !s.dm && !s.root.erl && !s.root.exl

/-- `IsRootMode()` (R202), as the TLBR page writes it out. -/
def State.isRootMode (s : State) : Bool := !s.gm || (s.gm && (s.dm || s.root.erl || s.root.exl))

/-- `Cur`: the context of the executing mode (R203). -/
def State.cur (s : State) : Ctx := if s.isGuestMode then .guest else .root

/-- `KernelMode(ctx)` (R204). -/
def Cp0.kernelMode (k : Cp0) : Bool := k.ksu == 0 || k.exl || k.erl

/-- `SupervisorMode(ctx)` (R204). -/
def Cp0.supervisorMode (k : Cp0) : Bool := k.ksu == 1 && !k.exl && !k.erl

/-- `UserMode(ctx)` (R204). -/
def Cp0.userMode (k : Cp0) : Bool := k.ksu == 2 && !k.exl && !k.erl

/-- The context's mode is decided by `KSU = 3`, to which R204 gives no meaning. -/
def Cp0.modeHasNoMeaning (k : Cp0) : Bool := !(k.kernelMode || k.supervisorMode || k.userMode)

/-- The executing mode has no meaning (R204, U37): debug mode apart, the executing context is in none of the three. -/
def State.modeHasNoMeaning (s : State) : Bool := !s.dm && (s.cp0 s.cur).modeHasNoMeaning

/-- `Cp0Enabled()` (R205). -/
def State.cp0Enabled (s : State) : Bool := (s.cp0 s.cur).cu0 || (s.cp0 s.cur).kernelMode || s.dm

/-- `Ops64Enabled()` (R206). -/
def State.ops64Enabled (s : State) : Bool :=
  (s.cp0 s.cur).kernelMode || (s.cp0 s.cur).supervisorMode || s.dm || (s.cp0 s.cur).px || (s.cp0 s.cur).ux

end Sys2Proof.Machine
end

