-- ==== Sys2Proof/Machine/Ops.lean ====
section
/-! DEFINITION. The named operations every meaning is built from: general registers, the program counter, the program
text, taking an exception, and how an instruction ends. -/

namespace Sys2Proof.Machine

/-! ### How an instruction ends -/

/-- Why an instruction ends without a next state. -/
inductive Stop where
  | fault (f : Fault)
  | refuse (r : Refusal)
deriving DecidableEq, Repr

/-- The result of a part of an instruction: a value, or the reason the instruction ends there (R207). -/
abbrev Run (α : Type) := Except Stop α

/-- Take an exception (R200, R210): the step ends with the trap outcome, which names the exception, the executing mode's
context (R208) and the instruction's pc; nothing is written. There is no return from it (R214). -/
def raise {α : Type} (kind : ExcKind) (s : State) : Run α :=
  .error (.fault (.trap { kind := kind, takenIn := s.cur, pc := s.pc }))

/-- An `UNDEFINED` case: no next state (R18, `93_implementation_defined.md`). -/
def refuse {α : Type} (r : Refusal) : Run α := .error (.refuse r)

/-- What a completed instruction does after its effect: `pc <- pc + 4` (R23); the draw counter moves on, so that the next
instruction takes fresh free values. -/
def State.advance (s : State) : State := { s with pc := s.pc + 4#64, draws := s.draws + 1 }

/-- The outcome of an instruction from the result of its effect (R18, R23). -/
def finish : Run State → Host.Outcome State Fault Refusal
  | .ok t => .next t.advance
  | .error (.fault f) => .fault f
  | .error (.refuse r) => .refused r

/-! ### General registers (R21) -/

/-- `x[i]`: register 0 reads 0. -/
def State.getGpr (s : State) (i : Nat) : Word := if i = 0 then 0#64 else s.gpr[i]?.getD 0#64

/-- `x[i] <- v`: a write to register 0 is discarded. -/
def State.setGpr (s : State) (i : Nat) (v : Word) : State :=
  if i = 0 then s else { s with gpr := s.gpr.setIfInBounds i v }

/-! ### The program text (R61, R62): address and byte pairs, addresses strictly rising; an unlisted address holds nothing. -/

/-- The byte at an address, where the text has one. -/
def memGet : List Host.Cell → Nat → Option Byte
  | [], _ => none
  | (a, b) :: rest, key => if a = key then some b else memGet rest key

/-- `m` with the byte at one address replaced or added, in its place. -/
def memPut : List Host.Cell → Nat → Byte → List Host.Cell
  | [], key, v => [(key, v)]
  | (a, b) :: rest, key, v =>
    if key < a then (key, v) :: (a, b) :: rest
    else if key = a then (key, v) :: rest
    else (a, b) :: memPut rest key v

/-- `MemRead(addr, n)`: the `n` bytes from `addr` up, addresses modulo 2^64 (R18). -/
def memRead (m : List Host.Cell) (addr : Word) : Nat → Option (List Byte)
  | 0 => some []
  | n + 1 =>
    match memGet m addr.toNat, memRead m (addr + 1#64) n with
    | some b, some bs => some (b :: bs)
    | _, _ => none

/-- `MemWrite(addr, n, v)`: the given bytes from `addr` up, addresses modulo 2^64 (R18). No instruction uses it (R60). -/
def memWrite (m : List Host.Cell) (addr : Word) : List Byte → List Host.Cell
  | [] => m
  | b :: bs => memPut (memWrite m (addr + 1#64) bs) addr.toNat b

/-- A number lies above a bound, if there is one. -/
def above : Option Nat → Nat → Bool
  | none, _ => true
  | some l, a => decide (l < a)

/-- The addresses of a memory rise strictly from above `lo` and lie below 2^64. -/
def memSortedFrom : Option Nat → List Host.Cell → Bool
  | _, [] => true
  | lo, (a, _) :: rest =>
    above lo a && decide (a < 2 ^ 64) && memSortedFrom (some a) rest

/-- The canonical form of the program text. -/
def Memory.wf (m : List Host.Cell) : Bool := memSortedFrom none m

/-- The four bytes of the instruction word at `pc`, where the program text has them (R62). -/
def State.fetchBytes (s : State) : Option (List Byte) := memRead s.mem s.pc 4

/-- `pc` is a multiple of 4 (R23, R62). -/
def State.pcAligned (s : State) : Bool := decide (s.pc.toNat % 4 = 0)

end Sys2Proof.Machine
end

