-- ==== Sys2Proof/Machine/Tlb.lean ====
section
/-! DEFINITION. The operations the two TLB families share, on the TLB and registers of one context (R130 to R132, R135,
R136, R139, R140, R160, R167). -/

namespace Sys2Proof.Machine

/-! ### Guards -/

/-- `TlbgGuards(inv)` (R130). -/
def tlbgGuards (inv : Bool) (s : State) : Run Unit :=
  if s.modeHasNoMeaning then refuse .modeHasNoMeaning
  else if !s.cp0Enabled then raise (.coprocessorUnusable 0) s
  else if !(s.cp0 s.cur).vz then raise .reservedInstruction s
  else if !s.guest.hasTlb then refuse .noTlb
  else if inv && !s.guest.hasInvalid then raise .reservedInstruction s
  else .ok ()

/-- `TlbGuards(inv)` (R160): no `Config3.VZ` test (D25), and the tests are those of the executing context. -/
def tlbGuards (inv : Bool) (s : State) : Run Unit :=
  if s.modeHasNoMeaning then refuse .modeHasNoMeaning
  else if !s.cp0Enabled then raise (.coprocessorUnusable 0) s
  else if !(s.cp0 s.cur).hasTlb then refuse .noTlb
  else if inv && !(s.cp0 s.cur).hasInvalid then raise .reservedInstruction s
  else .ok ()

/-! ### Entries -/

/-- `CurGid()` (R167). -/
def State.curGid (s : State) : BitVec 8 := if s.isGuestMode then s.id else s.rid

/-- `ctx.TLB[i]` (R45). -/
def State.entry (s : State) (c : Ctx) (i : Nat) : TlbEntry := (s.tlb c)[i]?.getD TlbEntry.zero

/-- `ctx.Index` as an unsigned number: the whole register (R131, R136, R137). -/
def State.idx (s : State) (c : Ctx) : Nat := (s.cp0 c).index.toNat

/-- The entry belongs to `gid`, or entries carry no GuestID (R133, R135). -/
def State.gidOk (s : State) (gid : BitVec 8) (e : TlbEntry) : Bool := !s.g1 || e.guestId == gid

/-- The entry is not marked invalid; where the mark does not exist it counts as 0 (R132, D21). -/
def State.notInvalid (s : State) (c : Ctx) (e : TlbEntry) : Bool := !((s.cp0 c).hasInvalid && e.hardwareInvalid)

/-- The entry is marked invalid (R136, R164). -/
def State.markedInvalid (s : State) (c : Ctx) (e : TlbEntry) : Bool := (s.cp0 c).hasInvalid && e.hardwareInvalid

/-! ### Invalidation (R131, R133, R134) -/

/-- `FtlbSet(ctx, index)`: the implementation's set of an FTLB index (R7, U24). -/
def ftlbSet (k : CtxConfig) (index : Nat) : List Nat := k.ftlbSetOf[index - k.vtlbEntries]?.getD []

/-- `InvRange(ctx)` (R131). -/
def invRange (c : Ctx) (s : State) : Run (List Nat) :=
  if (s.cp0 c).mt = 4 ∧ s.tlbEntries c ≤ s.idx c then refuse .indexBeyondTlb
  else if (s.cp0 c).mt = 1 ∨ ((s.cp0 c).mt = 4 ∧ (s.cp0 c).ie = 2 ∧ s.idx c < s.vtlbEntries c) then
    .ok (List.range (s.vtlbEntries c))
  else if (s.cp0 c).mt = 4 ∧ (s.cp0 c).ie = 2 then .ok (ftlbSet (ctxConfig s.cfg c) (s.idx c))
  else .ok (List.range (s.tlbEntries c))

/-- Mark invalid the entries of a set of indices that satisfy a test; nothing else changes (R133, R134). -/
def invalidateWhere (c : Ctx) (range : List Nat) (test : TlbEntry → Bool) (s : State) : State :=
  s.setTlb c ((s.tlb c).mapIdx fun i e => if i ∈ range ∧ test e = true then { e with hardwareInvalid := true } else e)

/-- The test of TLBGINV and TLBINV: the register's ASID, not global, the GuestID (R133, R161). -/
def asidTest (c : Ctx) (gid : BitVec 8) (s : State) (e : TlbEntry) : Bool :=
  e.asid == hiAsid s.cfg (s.cp0 c).entryHi && !e.g && s.gidOk gid e

/-! ### Probe (R132, R135, R163) -/

/-- `ProbeMatch(ctx, i)` for the entry `e` (R132). -/
def probeMatch (c : Ctx) (s : State) (e : TlbEntry) : Bool :=
  (e.vpn2 &&& ~~~(e.mask.setWidth 49)) == (hiVpn2 s.cfg (s.cp0 c).entryHi &&& ~~~(e.mask.setWidth 49)) &&
    e.r == hiR (s.cp0 c).entryHi && s.notInvalid c e && (e.g || e.asid == hiAsid s.cfg (s.cp0 c).entryHi)

/-- The index is in the FTLB part of the array (R46). -/
def State.inFtlb (s : State) (c : Ctx) (i : Nat) : Bool := (s.cp0 c).mt == 4 && decide (s.vtlbEntries c ≤ i)

/-- TLBGP looks at entry `i`: an FTLB entry that does not sit in the set its VPN2 selects may be missed (R135). -/
def probeSees (c : Ctx) (s : State) (i : Nat) (e : TlbEntry) : Bool :=
  !s.inFtlb c i || Config.ftlbVpnConsistent c e.vpn2 i || Config.freeProbeSees s.draws i

/-- `Hit`: the matching entries, in rising order (R135, R163). -/
def hits (c : Ctx) (gid : BitVec 8) (s : State) : List Nat :=
  (List.range (s.tlbEntries c)).filter fun i => probeMatch c s (s.entry c i) && s.gidOk gid (s.entry c i)

/-- The matching entries that TLBGP sees (R135). -/
def seenHits (c : Ctx) (gid : BitVec 8) (s : State) : List Nat :=
  (hits c gid s).filter fun i => probeSees c s i (s.entry c i)

/-- What a probe that finds these entries puts into `Index`: bit 31 after a miss; with several found any of them, or a
Machine Check (R135, R163, D23). -/
def probeResult (found : List Nat) (s : State) : Run Half :=
  match found with
  | [] => .ok (1#1 ++ Config.freeMissIndex s.draws)
  | [i] => .ok (BitVec.ofNat 32 i)
  | i :: rest =>
    if Config.freeProbeMachineCheck s.draws then raise .machineCheck s
    else .ok (BitVec.ofNat 32 ((i :: rest).getD (Config.freeHitChoice s.draws % (rest.length + 1)) i))

/-- `ctx.Index <- v` (R32). -/
def State.setIndex (s : State) (c : Ctx) (v : Half) : State := s.setCp0 c { s.cp0 c with index := v }

/-- Report in a context's Index the entries a probe of its TLB found (R135, R163). -/
def probe (c : Ctx) (found : List Nat) (s : State) : Run State :=
  match probeResult found s with
  | .ok v => .ok (s.setIndex c v)
  | .error e => .error e

/-! ### Read (R136, R164) -/

/-- `v` with the bits under a mask cleared, where the implementation clears them (`K` of R136 and R139). -/
def clearUnder {w : Nat} (clears : Bool) (v : BitVec w) (mask : BitVec 16) : BitVec w :=
  if clears then v &&& ~~~(mask.setWidth w) else v

/-- Bits 63:30 of EntryLo0 and EntryLo1 after a read: the source's zeros, or free (U17). -/
def State.readHigh (s : State) (free : BitVec 34) : BitVec 34 := if s.cfg.tlbReadHighBitsAny then free else 0#34

/-- Load a context's registers from an entry (R136, R164). -/
def loadEntry (c : Ctx) (e : TlbEntry) (s : State) : State :=
  s.setCp0 c { s.cp0 c with
    pageMask := putMask (s.cp0 c).pageMask e.mask
    entryHi := makeHi e.r (clearUnder s.cfg.tlbMaskOnRead e.vpn2 e.mask) e.asid
    entryLo1 := makeLo (s.readHigh (Config.freeHighBits1 s.draws)) (clearUnder s.cfg.tlbMaskOnRead e.pfn1 e.mask)
      e.c1 e.d1 e.v1 e.g
    entryLo0 := makeLo (s.readHigh (Config.freeHighBits0 s.draws)) (clearUnder s.cfg.tlbMaskOnRead e.pfn0 e.mask)
      e.c0 e.d0 e.v0 e.g }

/-- Load a context's registers from an invalid entry: zeros, and `EntryHi.EHINV = 1` (R136, R164). -/
def loadInvalid (c : Ctx) (s : State) : State :=
  s.setCp0 c { s.cp0 c with
    pageMask := putMask (s.cp0 c).pageMask 0#16
    entryHi := (s.cp0 c).invalidHi
    entryLo1 := 0#64
    entryLo0 := 0#64 }

/-- `GuestCtl1.RID <- v` where GuestID is supported (R136, R164). -/
def State.updateRid (s : State) (v : BitVec 8) : State := if s.g1 then s.setRid v else s

/-! ### Write (R139, R140) -/

/-- `PageMask.Mask` of a context (R35). -/
def State.maskField (s : State) (c : Ctx) : BitVec 16 := pmMask s.cfg (s.cp0 c).pageMask

/-- The AND of the two registers' G bits (R137). -/
def State.gAnd (s : State) (c : Ctx) : Bool := loG (s.cp0 c).entryLo1 && loG (s.cp0 c).entryLo0

/-- The G bit TLBWI and TLBWR write (R165, R166): 1 for a root-mode write for a guest while `RAD = 0`. -/
def State.gForBase (s : State) : Bool :=
  if s.g1 && !s.rad && s.isRootMode && s.rid != 0#8 then true else s.gAnd s.cur

/-- The entry a context's registers describe, `old` standing for the parts that are not written (R139). -/
def newEntry (c : Ctx) (g : Bool) (gid : BitVec 8) (s : State) (old : TlbEntry) : TlbEntry :=
  { mask := s.maskField c
    r := hiR (s.cp0 c).entryHi
    vpn2 := clearUnder s.cfg.tlbMaskOnWrite (hiVpn2 s.cfg (s.cp0 c).entryHi) (s.maskField c)
    asid := hiAsid s.cfg (s.cp0 c).entryHi
    g := g
    pfn0 := clearUnder s.cfg.tlbMaskOnWrite (loPfn (s.cp0 c).entryLo0) (s.maskField c)
    c0 := loC (s.cp0 c).entryLo0
    d0 := loD (s.cp0 c).entryLo0
    v0 := loV (s.cp0 c).entryLo0
    pfn1 := clearUnder s.cfg.tlbMaskOnWrite (loPfn (s.cp0 c).entryLo1) (s.maskField c)
    c1 := loC (s.cp0 c).entryLo1
    d1 := loD (s.cp0 c).entryLo1
    v1 := loV (s.cp0 c).entryLo1
    guestId := if s.g1 then gid else old.guestId
    hardwareInvalid := if (s.cp0 c).hasInvalid then (s.cp0 c).ehinv else old.hardwareInvalid }

/-- `WriteEntry(ctx, i, g, gid)` (R139). -/
def writeEntry (c : Ctx) (i : Nat) (g : Bool) (gid : BitVec 8) (s : State) : State :=
  s.setTlb c ((s.tlb c).set i (newEntry c g gid s (s.entry c i)))

/-- Some contents of EntryHi and some GuestID would match both entries (R132): what R140's "overlaps" is taken to mean. -/
def State.overlaps (s : State) (a b : TlbEntry) : Bool :=
  (a.vpn2 &&& ~~~((a.mask ||| b.mask).setWidth 49)) == (b.vpn2 &&& ~~~((a.mask ||| b.mask).setWidth 49)) &&
    a.r == b.r && (a.g || b.g || a.asid == b.asid) && (!s.g1 || a.guestId == b.guestId)

/-- Another valid entry of the TLB overlaps the one about to be written (R140). -/
def multipleMatch (c : Ctx) (i : Nat) (g : Bool) (gid : BitVec 8) (s : State) : Bool :=
  (List.range (s.tlbEntries c)).any fun j =>
    j != i && s.notInvalid c (s.entry c j) && s.overlaps (newEntry c g gid s (s.entry c i)) (s.entry c j)

/-- The write is in FTLB range with another page size than the FTLB's, or with a VPN2 not consistent with its index
(R140). -/
def ftlbMisuse (c : Ctx) (i : Nat) (g : Bool) (gid : BitVec 8) (s : State) : Bool :=
  s.inFtlb c i &&
    (s.maskField c != (ctxConfig s.cfg c).ftlbMask ||
      !Config.ftlbVpnConsistent c (newEntry c g gid s (s.entry c i)).vpn2 i)

/-- The write is outside the premise `NoTlbConflict`; never with `EHINV = 1` (R140). -/
def writeConflict (c : Ctx) (i : Nat) (g : Bool) (gid : BitVec 8) (s : State) : Bool :=
  !(s.cp0 c).ehinv && (multipleMatch c i g gid s || ftlbMisuse c i g gid s)

/-- Mark invalid the other entries a conflicting write is drawn to invalidate (R140, D24). -/
def invalidateOthers (c : Ctx) (i : Nat) (s : State) : State :=
  if (s.cp0 c).hasInvalid then
    s.setTlb c ((s.tlb c).mapIdx fun j e =>
      if j ≠ i ∧ Config.freeInvalidated s.draws j = true then { e with hardwareInvalid := true } else e)
  else s

/-- A TLB write with the Machine Check and multiple-match handling of R140: outside the premise any of the three outcomes. -/
def checkedWrite (c : Ctx) (i : Nat) (g : Bool) (gid : BitVec 8) (s : State) : Run State :=
  if writeConflict c i g gid s then
    match Config.freeWriteOutcome s.draws with
    | .plain => .ok (writeEntry c i g gid s)
    | .invalidateOthers => .ok (invalidateOthers c i (writeEntry c i g gid s))
    | .machineCheck => raise .machineCheck s
  else .ok (writeEntry c i g gid s)

/-- The number of entries a random write may address, from 0 up (R138, R166). -/
def State.randomBound (s : State) (c : Ctx) : Nat :=
  if (s.cp0 c).mt = 4 ∧ s.maskField c ≠ (ctxConfig s.cfg c).ftlbMask then s.vtlbEntries c else s.tlbEntries c

/-- The entry a random write addresses: any of those `randomBound` admits (R33, D15). -/
def State.randomIndex (s : State) (c : Ctx) : Nat := Config.freeRandomEntry s.draws % s.randomBound c

/-- `Random` after a random write is not specified (R138, R166). -/
def State.randomMoved (s : State) (c : Ctx) : State :=
  s.setCp0 c { s.cp0 c with random := Config.freeRandomAfter s.draws }

/-- A TLB write at `Index`, which must be below the number of entries (R137, R165). -/
def indexedWrite (c : Ctx) (g : Bool) (gid : BitVec 8) (s : State) : Run State :=
  if s.tlbEntries c ≤ s.idx c then refuse .indexBeyondTlb else checkedWrite c (s.idx c) g gid s

/-- A TLB write at `Random` (R138, R166). -/
def randomWrite (c : Ctx) (g : Bool) (gid : BitVec 8) (s : State) : Run State :=
  if s.randomBound c = 0 then refuse .noAdmittedEntry
  else
    match checkedWrite c (s.randomIndex c) g gid s with
    | .ok t => .ok (t.randomMoved c)
    | .error e => .error e

end Sys2Proof.Machine
end

