-- ==== Sys2Proof/Machine/BaseTlb.lean ====
section
/-! DEFINITION. The base TLB instructions as the module changes them, run on the context of the executing mode
(`42_root_tlb.md`). -/

namespace Sys2Proof.Machine

/-- TLBINV (R161). -/
def execTlbinv (s : State) : Host.Outcome State Fault Refusal :=
  finish <|
    match tlbGuards true s with
    | .error e => .error e
    | .ok _ =>
      match invRange s.cur s with
      | .error e => .error e
      | .ok range => .ok (invalidateWhere s.cur range (asidTest s.cur s.curGid s) s)

/-- TLBINVF (R162). -/
def execTlbinvf (s : State) : Host.Outcome State Fault Refusal :=
  finish <|
    match tlbGuards true s with
    | .error e => .error e
    | .ok _ =>
      match invRange s.cur s with
      | .error e => .error e
      | .ok range => .ok (invalidateWhere s.cur range (s.gidOk s.curGid) s)

/-- TLBP (R163). -/
def execTlbp (s : State) : Host.Outcome State Fault Refusal :=
  finish <|
    match tlbGuards false s with
    | .error e => .error e
    | .ok _ => probe s.cur (hits s.cur s.curGid s) s

/-- `GuestCtl1.RID` after TLBR: written in root mode only (R164). -/
def State.updateRidInRoot (s : State) (v : BitVec 8) : State := if s.isRootMode then s.updateRid v else s

/-- TLBR (R164). -/
def execTlbr (s : State) : Host.Outcome State Fault Refusal :=
  finish <|
    match tlbGuards false s with
    | .error e => .error e
    | .ok _ =>
      if s.tlbEntries s.cur ≤ s.idx s.cur then refuse .indexBeyondTlb
      else if s.markedInvalid s.cur (s.entry s.cur (s.idx s.cur)) then .ok ((loadInvalid s.cur s).updateRidInRoot 0#8)
      else if s.isGuestMode && !s.gidOk s.id (s.entry s.cur (s.idx s.cur)) then .ok (loadInvalid s.cur s)
      else
        .ok ((loadEntry s.cur (s.entry s.cur (s.idx s.cur)) s).updateRidInRoot
          (s.entry s.cur (s.idx s.cur)).guestId)

/-- TLBWI (R165). -/
def execTlbwi (s : State) : Host.Outcome State Fault Refusal :=
  finish <|
    match tlbGuards false s with
    | .error e => .error e
    | .ok _ => indexedWrite s.cur s.gForBase s.curGid s

/-- TLBWR (R166). -/
def execTlbwr (s : State) : Host.Outcome State Fault Refusal :=
  finish <|
    match tlbGuards false s with
    | .error e => .error e
    | .ok _ => randomWrite s.cur s.gForBase s.curGid s

end Sys2Proof.Machine
end

