-- ==== Sys2Proof/Machine/Operands.lean ====
section
/-! DEFINITION. The operands of the guest moves: the guest coprocessor 0 register a pair `(rd, sel)` names, and the read
and write access the spec gives it (R10 to R12, R28, R31, R100 to R102, R109, R110). -/

namespace Sys2Proof.Machine

/-! ### Which register a pair names (R28) -/

/-- A coprocessor 0 register by name; a pair that R28 gives no name keeps its numbers. -/
inductive RegName where
  | index
  | random
  | entryLo0
  | entryLo1
  | pageMask
  | pageGrain
  | wired
  | count
  | entryHi
  | status
  | config
  | config1
  | config3
  | config4
  | watchHi (sel : Nat)
  | other (key : Nat)
deriving DecidableEq, Repr

/-- The register numbers of R28. -/
def regName (rd sel : Nat) : RegName :=
  match rd, sel with
  | 0, 0 => .index
  | 1, 0 => .random
  | 2, 0 => .entryLo0
  | 3, 0 => .entryLo1
  | 5, 0 => .pageMask
  | 5, 1 => .pageGrain
  | 6, 0 => .wired
  | 9, 0 => .count
  | 10, 0 => .entryHi
  | 12, 0 => .status
  | 16, 0 => .config
  | 16, 1 => .config1
  | 16, 3 => .config3
  | 16, 4 => .config4
  | 19, sel => if sel < 8 then .watchHi sel else .other (8 * 19 + sel)
  | rd, sel => .other (8 * rd + sel)

/-- `IsEntryLo(rd, sel)` (R109). -/
def isEntryLo (rd sel : Nat) : Bool := regName rd sel == .entryLo0 || regName rd sel == .entryLo1

/-- `IsCount(rd, sel)` (R109). -/
def isCount (rd sel : Nat) : Bool := regName rd sel == .count

/-- `(rd, sel)` is `Random`, whose value changes on its own (R33, R47). -/
def isRandom (rd sel : Nat) : Bool := regName rd sel == .random

/-! ### Register images (R27) -/

/-- The image of an unnamed pair; an unlisted one holds 0. -/
def otherGet : List (Nat × Word) → Nat → Word
  | [], _ => 0#64
  | (k, v) :: rest, key => if k = key then v else otherGet rest key

/-- The images with one pair's replaced, keys rising and no image 0 listed. -/
def otherPut : List (Nat × Word) → Nat → Word → List (Nat × Word)
  | [], key, v => if v = 0#64 then [] else [(key, v)]
  | (k, w) :: rest, key, v =>
    if key < k then (if v = 0#64 then (k, w) :: rest else (key, v) :: (k, w) :: rest)
    else if key = k then (if v = 0#64 then rest else (key, v) :: rest)
    else (k, w) :: otherPut rest key v

/-- The keys of the unnamed images rise strictly from above `lo`, and no image is 0. -/
def otherSortedFrom : Option Nat → List (Nat × Word) → Bool
  | _, [] => true
  | lo, (k, v) :: rest =>
    above lo k && decide (v ≠ 0#64) && otherSortedFrom (some k) rest

/-- The canonical form of the unnamed images. -/
def Other.wf (m : List (Nat × Word)) : Bool := otherSortedFrom none m

/-- The stored image of a register, a 32-bit one zero-extended. -/
def Cp0.get (k : Cp0) : RegName → Word
  | .index => k.index.setWidth 64
  | .random => k.random.setWidth 64
  | .entryLo0 => k.entryLo0
  | .entryLo1 => k.entryLo1
  | .pageMask => k.pageMask.setWidth 64
  | .pageGrain => k.pageGrain.setWidth 64
  | .wired => k.wired.setWidth 64
  | .count => k.count.setWidth 64
  | .entryHi => k.entryHi
  | .status => k.status.setWidth 64
  | .config => k.config.setWidth 64
  | .config1 => k.config1.setWidth 64
  | .config3 => k.config3.setWidth 64
  | .config4 => k.config4.setWidth 64
  | .watchHi sel => (k.watchHi[sel]?.getD 0#32).setWidth 64
  | .other key => otherGet k.other key

/-- Store a register's image; a 32-bit register takes the low 32 bits. -/
def Cp0.put (k : Cp0) (r : RegName) (v : Word) : Cp0 :=
  match r with
  | .index => { k with index := v.setWidth 32 }
  | .random => { k with random := v.setWidth 32 }
  | .entryLo0 => { k with entryLo0 := v }
  | .entryLo1 => { k with entryLo1 := v }
  | .pageMask => { k with pageMask := v.setWidth 32 }
  | .pageGrain => { k with pageGrain := v.setWidth 32 }
  | .wired => { k with wired := v.setWidth 32 }
  | .count => { k with count := v.setWidth 32 }
  | .entryHi => { k with entryHi := v }
  | .status => { k with status := v.setWidth 32 }
  | .config => { k with config := v.setWidth 32 }
  | .config1 => { k with config1 := v.setWidth 32 }
  | .config3 => { k with config3 := v.setWidth 32 }
  | .config4 => { k with config4 := v.setWidth 32 }
  | .watchHi sel => { k with watchHi := k.watchHi.setIfInBounds sel (v.setWidth 32) }
  | .other key => { k with other := otherPut k.other key v }

/-! ### The guest register table (R11, R12) -/

/-- The `GuestRegInfo` of a pair the table does not list: an `Absent` register (R11). -/
def absentInfo : GuestRegInfo :=
  { cls := .absent, width := .w32, extended := false, xpaOnly := false, visible := 0#64, writable := 0#64 }

/-- The first row of the table for a pair. -/
def lookupReg : List GuestRegRow → Nat → Nat → GuestRegInfo
  | [], _, _ => absentInfo
  | row :: rest, rd, sel => if row.rd = rd ∧ row.sel = sel then row.info else lookupReg rest rd sel

/-- `GuestRegTable(rd, sel)` (R12). -/
def State.regInfo (s : State) (rd sel : Nat) : GuestRegInfo := lookupReg s.cfg.guestRegs rd sel

/-- The guest context holds a register for the pair: it is `Replicated` or `Shared` (R11). -/
def State.regPresent (s : State) (rd sel : Nat) : Bool :=
  (s.regInfo rd sel).cls == .replicated || (s.regInfo rd sel).cls == .shared

/-- The bits a register of this width has. -/
def widthMask : RegWidth → Word
  | .w32 => 0xFFFFFFFF#64
  | .w64 => BitVec.allOnes 64

/-- The bits of a register no move-to changes, whatever the table says: the read-only configuration fields (R42, R43,
R48), and EHINV where it does not exist (R39, D14). -/
def readOnlyBits (k : Cp0) : RegName → Word
  | .config => 0x00000380#64
  | .config1 => 0x7E000000#64
  | .config3 => 0x00800080#64
  | .config4 => 0x600000FF#64
  | .entryHi => if k.hasInvalid then 0#64 else ehinvBit
  | _ => 0#64

/-- The `writable` mask of R12, less the bits that are read-only by R39, R42 and R43. -/
def State.writableBits (s : State) (rd sel : Nat) : Word :=
  (s.regInfo rd sel).writable &&& ~~~(readOnlyBits s.guest (regName rd sel))

/-! ### Access (R100 to R102) -/

/-- `GuestMoveGuards(needs64)` (R100). -/
def guestMoveGuards (needs64 : Bool) (s : State) : Run Unit :=
  if s.modeHasNoMeaning then refuse .modeHasNoMeaning
  else if !s.cp0Enabled then raise (.coprocessorUnusable 0) s
  else if !(s.cp0 s.cur).vz then raise .reservedInstruction s
  else if needs64 && !s.ops64Enabled then raise .reservedInstruction s
  else .ok ()

/-- `GCPR(rd, sel)` as it is read now, as wide as the table says: `Count` and `Random` are free at each read (R221, R33,
R47); EHINV reads 0 where it does not exist (R39). -/
def State.gcpr (s : State) (rd sel : Nat) : Word :=
  (match regName rd sel with
    | .count => Config.freeCount s.draws
    | .random => (Config.freeRandomRead s.draws).setWidth 64
    | .entryHi => if s.guest.hasInvalid then s.guest.entryHi else s.guest.entryHi &&& ~~~ehinvBit
    | r => s.guest.get r) &&& widthMask (s.regInfo rd sel).width

/-- `GuestRead(rd, sel)` (R101). -/
def State.guestRead (s : State) (rd sel : Nat) : Run Word :=
  match (s.regInfo rd sel).cls with
  | .absent => refuse (.noSuchGuestRegister rd sel)
  | .reservedArchImpl => .ok 0#64
  | .notAvailable => .ok 0#64
  | .replicated => .ok (s.gcpr rd sel)
  | .shared => .ok (s.gcpr rd sel &&& (s.regInfo rd sel).visible)

/-- The value a read has just found in `Count` or `Random` stands in the register (R221, R47); a read leaves every other
register alone (R101). -/
def State.observe (s : State) (rd sel : Nat) : State :=
  if s.regPresent rd sel && (isCount rd sel || isRandom rd sel) then
    { s with guest := s.guest.put (regName rd sel) (s.gcpr rd sel) }
  else s

/-- `GuestWrite(rd, sel, new, m)` (R102). -/
def State.guestWrite (s : State) (rd sel : Nat) (new m : Word) : Run State :=
  match (s.regInfo rd sel).cls with
  | .absent => refuse (.noSuchGuestRegister rd sel)
  | .reservedArchImpl => .ok s
  | .notAvailable => .ok s
  | .replicated =>
    .ok { s with
      guest := s.guest.put (regName rd sel) (mergeBits (s.guest.get (regName rd sel)) new (m &&& s.writableBits rd sel)) }
  | .shared =>
    .ok { s with
      guest := s.guest.put (regName rd sel)
        (mergeBits (s.guest.get (regName rd sel)) new (m &&& s.writableBits rd sel &&& (s.regInfo rd sel).visible)) }

/-- The move-high instructions' tests on the register (R106, R108). -/
def highHalfGuards (s : State) (rd sel : Nat) : Run Unit :=
  if s.regPresent rd sel && !(s.regInfo rd sel).extended then refuse (.guestRegisterNotExtended rd sel)
  else if s.regPresent rd sel && (s.regInfo rd sel).xpaOnly && !s.xpaEnabled then refuse (.xpaNotEnabled rd sel)
  else .ok ()

/-! ### What a move makes of a value -/

/-- MFGC0 of EntryLo0/1: RI and XI at bits 31:30, bits 29:0, sign-extended (R105). -/
def entryLoLow (data : Word) : Word := (data.extractLsb' 62 2 ++ data.extractLsb' 0 30 : Half).signExtend 64

/-- MFHGC0 of EntryLo0/1: bits 61:30, sign-extended; the two lowest read 0 where RI/XI are not supported (R106, R108). -/
def entryLoHigh (rixi : Bool) (data : Word) : Word :=
  if rixi then (data.extractLsb' 30 32).signExtend 64 else (data.extractLsb' 30 32).signExtend 64 &&& ~~~3#64

/-- MTGC0 to EntryLo0/1: bits 31:30 become RI and XI, bits 61:30 become 0 (R107). -/
def entryLoFromLow (data : Word) : Word := data.extractLsb' 30 2 ++ 0#32 ++ data.extractLsb' 0 30

/-- The bits of `data[31:2]` that `PABITS` implements (R108). -/
def paMask (cfg : Config) : BitVec 30 := lowMask 30 (cfg.paBits - 36)

/-- MTHGC0 to EntryLo0/1: bits 1:0 go to 31:30 and the implemented bits of 31:2 to 61:32 (R108). -/
def entryLoFromHigh (cfg : Config) (data : Word) : Word :=
  0#2 ++ (data.extractLsb' 2 30 &&& paMask cfg) ++ data.extractLsb' 0 2 ++ 0#30

/-- Bits 61:30, which MTHGC0 writes in EntryLo0/1 (R108). -/
def entryLoHighMask : Word := 0x3FFFFFFFC0000000#64

/-- Bits 63:32, which MTHGC0 writes in any other register (R108). -/
def highMask : Word := 0xFFFFFFFF00000000#64

end Sys2Proof.Machine
end

