-- ==== Sys2Proof/Machine/GuestMoves.lean ====
section
/-! DEFINITION. The moves to and from guest coprocessor 0 (`40_guest_cp0_moves.md`). -/

namespace Sys2Proof.Machine

/-- A move from the guest: read the register (R101) and put what `f` makes of it into `x[rt]`. -/
def moveFrom (rt rd sel : Nat) (f : Word → Word) (s : State) : Run State :=
  match s.guestRead rd sel with
  | .ok data => .ok ((s.observe rd sel).setGpr rt (f data))
  | .error e => .error e

/-- DMFGC0 (R103). -/
def execDmfgc0 (rt rd sel : Nat) (s : State) : Host.Outcome State Fault Refusal :=
  finish <|
    match guestMoveGuards true s with
    | .error e => .error e
    | .ok _ =>
      if s.regPresent rd sel && (s.regInfo rd sel).width == .w32 then refuse (.guestRegisterIs32Bit rd sel)
      else moveFrom rt rd sel (fun data => data) s

/-- DMTGC0 (R104). -/
def execDmtgc0 (rt rd sel : Nat) (s : State) : Host.Outcome State Fault Refusal :=
  finish <|
    match guestMoveGuards true s with
    | .error e => .error e
    | .ok _ =>
      if isCount rd sel then refuse .guestCountIsReadOnly
      else if s.regPresent rd sel && (s.regInfo rd sel).width == .w32 then refuse (.guestRegisterIs32Bit rd sel)
      else s.guestWrite rd sel (s.getGpr rt) (BitVec.allOnes 64)

/-- MFGC0 (R105). -/
def execMfgc0 (rt rd sel : Nat) (s : State) : Host.Outcome State Fault Refusal :=
  finish <|
    match guestMoveGuards false s with
    | .error e => .error e
    | .ok _ => if isEntryLo rd sel then moveFrom rt rd sel entryLoLow s else moveFrom rt rd sel sextLow s

/-- MFHGC0 (R106). -/
def execMfhgc0 (rt rd sel : Nat) (s : State) : Host.Outcome State Fault Refusal :=
  finish <|
    match guestMoveGuards false s with
    | .error e => .error e
    | .ok _ =>
      match highHalfGuards s rd sel with
      | .error e => .error e
      | .ok _ =>
        if isEntryLo rd sel then moveFrom rt rd sel (entryLoHigh s.cfg.rixiSupported) s
        else moveFrom rt rd sel (fun data => (data.extractLsb' 32 32).signExtend 64) s

/-- MTGC0 (R107). -/
def execMtgc0 (rt rd sel : Nat) (s : State) : Host.Outcome State Fault Refusal :=
  finish <|
    match guestMoveGuards false s with
    | .error e => .error e
    | .ok _ =>
      if isCount rd sel then refuse .guestCountIsReadOnly
      else if isEntryLo rd sel then s.guestWrite rd sel (entryLoFromLow (s.getGpr rt)) (BitVec.allOnes 64)
      else s.guestWrite rd sel (s.getGpr rt) (widthMask (s.regInfo rd sel).width)

/-- MTHGC0 (R108). -/
def execMthgc0 (rt rd sel : Nat) (s : State) : Host.Outcome State Fault Refusal :=
  finish <|
    match guestMoveGuards false s with
    | .error e => .error e
    | .ok _ =>
      match highHalfGuards s rd sel with
      | .error e => .error e
      | .ok _ =>
        if isEntryLo rd sel then s.guestWrite rd sel (entryLoFromHigh s.cfg (s.getGpr rt)) entryLoHighMask
        else s.guestWrite rd sel (s.getGpr rt <<< 32) highMask

end Sys2Proof.Machine
end

