-- ==== Sys2Proof/Machine/GuestTlb.lean ====
section
/-! DEFINITION. The guest TLB instructions, run in root mode on the guest context (`41_guest_tlb.md`). -/

namespace Sys2Proof.Machine

/-- TLBGINV (R133). -/
def execTlbginv (s : State) : Host.Outcome State Fault Refusal :=
  finish <|
    match tlbgGuards true s with
    | .error e => .error e
    | .ok _ =>
      match invRange .guest s with
      | .error e => .error e
      | .ok range => .ok (invalidateWhere .guest range (asidTest .guest s.rid s) s)

/-- TLBGINVF (R134). -/
def execTlbginvf (s : State) : Host.Outcome State Fault Refusal :=
  finish <|
    match tlbgGuards true s with
    | .error e => .error e
    | .ok _ =>
      match invRange .guest s with
      | .error e => .error e
      | .ok range => .ok (invalidateWhere .guest range (s.gidOk s.rid) s)

/-- TLBGP (R135). -/
def execTlbgp (s : State) : Host.Outcome State Fault Refusal :=
  finish <|
    match tlbgGuards false s with
    | .error e => .error e
    | .ok _ => probe .guest (seenHits .guest s.rid s) s

/-- TLBGR (R136). -/
def execTlbgr (s : State) : Host.Outcome State Fault Refusal :=
  finish <|
    match tlbgGuards false s with
    | .error e => .error e
    | .ok _ =>
      if s.tlbEntries .guest ≤ s.idx .guest then refuse .indexBeyondTlb
      else if s.markedInvalid .guest (s.entry .guest (s.idx .guest)) then .ok ((loadInvalid .guest s).updateRid 0#8)
      else
        .ok ((loadEntry .guest (s.entry .guest (s.idx .guest)) s).updateRid
          (s.entry .guest (s.idx .guest)).guestId)

/-- TLBGWI (R137). -/
def execTlbgwi (s : State) : Host.Outcome State Fault Refusal :=
  finish <|
    match tlbgGuards false s with
    | .error e => .error e
    | .ok _ => indexedWrite .guest (s.gAnd .guest) s.rid s

/-- TLBGWR (R138). -/
def execTlbgwr (s : State) : Host.Outcome State Fault Refusal :=
  finish <|
    match tlbgGuards false s with
    | .error e => .error e
    | .ok _ => randomWrite .guest (s.gAnd .guest) s.rid s

end Sys2Proof.Machine
end

