-- ==== Sys2Proof/Machine/Dispatch.lean ====
section
/-! DEFINITION. What each instruction does: one arm a constructor. -/
namespace Sys2Proof.Machine

def exec (i : Instr) (s : State) : Host.Outcome State Fault Refusal :=
  match i with
  | .dmfgc0 rt rd sel => Sys2Proof.Machine.execDmfgc0 rt rd sel s
  | .dmtgc0 rt rd sel => Sys2Proof.Machine.execDmtgc0 rt rd sel s
  | .mfgc0 rt rd sel => Sys2Proof.Machine.execMfgc0 rt rd sel s
  | .mfhgc0 rt rd sel => Sys2Proof.Machine.execMfhgc0 rt rd sel s
  | .mtgc0 rt rd sel => Sys2Proof.Machine.execMtgc0 rt rd sel s
  | .mthgc0 rt rd sel => Sys2Proof.Machine.execMthgc0 rt rd sel s
  | .tlbginv => Sys2Proof.Machine.execTlbginv s
  | .tlbginvf => Sys2Proof.Machine.execTlbginvf s
  | .tlbgp => Sys2Proof.Machine.execTlbgp s
  | .tlbgr => Sys2Proof.Machine.execTlbgr s
  | .tlbgwi => Sys2Proof.Machine.execTlbgwi s
  | .tlbgwr => Sys2Proof.Machine.execTlbgwr s
  | .tlbinv => Sys2Proof.Machine.execTlbinv s
  | .tlbinvf => Sys2Proof.Machine.execTlbinvf s
  | .tlbp => Sys2Proof.Machine.execTlbp s
  | .tlbr => Sys2Proof.Machine.execTlbr s
  | .tlbwi => Sys2Proof.Machine.execTlbwi s
  | .tlbwr => Sys2Proof.Machine.execTlbwr s

end Sys2Proof.Machine
end

