-- ==== Sys2Proof/Machine/Step.lean ====
section
/-! DEFINITION. One step: fetch the word at `pc`, decode it, run it (R20, R62). -/

namespace Sys2Proof.Machine

/-- One step (R20, R62): a `pc` that is not a multiple of 4 and a word outside the opcode table (R77) are refused. -/
def step (s : State) : Host.Outcome State Fault Refusal :=
  if s.pcAligned then
    match s.fetchBytes with
    | none => .fault (.noProgramText s.pc)
    | some bytes =>
      match decode s.cfg.bigEndian bytes with
      | .ok (i, _) => exec i s
      | .error (.notInSpec w) => .refused (.notInSpec w)
      | .error .truncated => .fault (.noProgramText s.pc)
  else .refused (.pcMisaligned s.pc)

/-- `s` with the word whose low `nbits` bits are those of `w` in the program text at `pc`, in the state's byte order. -/
def State.withFetchWord (s : State) (nbits w : Nat) : State :=
  { s with mem := memWrite s.mem s.pc (wordToBytes s.cfg.bigEndian (BitVec.ofNat 32 (w % 2 ^ nbits))) }

end Sys2Proof.Machine
end

