-- ==== Sys2Proof/Safety.lean ====
section
/-! DEFINITION. The terms statements use: when a state of the machine is well formed, when the guards of an instruction
family pass, and what the spec's rules say a next state holds, each written from its rule. -/

namespace Sys2Proof.Machine

/-! ### Well-formed configurations and states -/

/-- The TLB parameters of a context are sizes of a TLB (R7, R46, R131): it has a VTLB or JTLB entry, every number of an
entry leaves bit 31 of Index 0 (R32), and `FtlbSet` gives each FTLB index a set of FTLB indices that holds it. -/
def ctxConfigOk (k : CtxConfig) : Bool :=
  decide (0 < k.vtlbEntries) && decide (tlbEntries k ≤ 2 ^ 31) && k.ftlbSetOf.length == k.ftlbWays * k.ftlbSets &&
    k.ftlbSetOf.zipIdx.all fun p =>
      decide (k.vtlbEntries + p.2 ∈ p.1) && p.1.all fun i => decide (k.vtlbEntries ≤ i) && decide (i < tlbEntries k)

/-- The table gives a pair this class and width (R28, R31). -/
def rowIs (cfg : Config) (rd sel : Nat) (cls : RegClass) (width : RegWidth) : Bool :=
  (lookupReg cfg.guestRegs rd sel).cls == cls && (lookupReg cfg.guestRegs rd sel).width == width

/-- The table gives a pair of R28 that exists 32 bits. -/
def rowIs32 (cfg : Config) (rd sel : Nat) : Bool :=
  (lookupReg cfg.guestRegs rd sel).width == .w32 && !(lookupReg cfg.guestRegs rd sel).extended

/-- EntryLo0 and EntryLo1: `Replicated`, 64 bits, extended, for XPA only (R31). -/
def entryLoRowOk (cfg : Config) (rd : Nat) : Bool :=
  rowIs cfg rd 0 .replicated .w64 && (lookupReg cfg.guestRegs rd 0).extended && (lookupReg cfg.guestRegs rd 0).xpaOnly

/-- The rows of `GuestRegTable` that R28 and R31 fix; an extended register has 64 bits (R12). -/
def guestRegsOk (cfg : Config) : Bool :=
  rowIs cfg 0 0 .replicated .w32 && rowIs cfg 1 0 .replicated .w32 && entryLoRowOk cfg 2 && entryLoRowOk cfg 3 &&
    rowIs cfg 5 0 .replicated .w32 && rowIs cfg 6 0 .replicated .w32 && rowIs cfg 10 0 .replicated .w64 &&
    rowIs32 cfg 0 0 && rowIs32 cfg 1 0 && rowIs32 cfg 5 0 && rowIs32 cfg 5 1 && rowIs32 cfg 6 0 && rowIs32 cfg 9 0 &&
    rowIs32 cfg 12 0 && rowIs32 cfg 16 0 && rowIs32 cfg 16 1 && rowIs32 cfg 16 3 && rowIs32 cfg 16 4 &&
    (List.range 8).all (fun sel => rowIs cfg 19 sel .shared .w32 && rowIs32 cfg 19 sel) &&
    ((lookupReg cfg.guestRegs 9 0).cls == .replicated || (lookupReg cfg.guestRegs 9 0).cls == .shared) &&
    cfg.guestRegs.all fun row => !row.info.extended || row.info.width == .w64

/-- A configuration within the constraints of R7, R12, R31, D2 and D3. -/
def configOk (cfg : Config) : Bool :=
  ctxConfigOk cfg.root && ctxConfigOk cfg.guest && guestRegsOk cfg &&
    decide (13 ≤ cfg.segBits) && decide (cfg.segBits ≤ 62) && decide (cfg.asidBits ≤ 8) && decide (cfg.maskBits ≤ 16) &&
    decide (cfg.guestIdBits ≤ 8)

/-- The fields of a TLB entry fit the implemented widths (R45). -/
def entryFits (cfg : Config) (e : TlbEntry) : Bool :=
  decide (e.vpn2.toNat < 2 ^ (cfg.segBits - 13)) && decide (e.asid.toNat < 2 ^ cfg.asidBits) &&
    decide (e.mask.toNat < 2 ^ cfg.maskBits) && decide (e.guestId.toNat < 2 ^ cfg.guestIdBits)

/-- A context is well formed: its TLB has the configured number of entries, each within the implemented widths; no FTLB
with `MT = 1` (R7); EHINV is 0 where it does not exist (R39, D14); the unnamed images are in canonical form. -/
def ctxOk (s : State) (c : Ctx) : Bool :=
  (s.tlb c).length == s.tlbEntries c && (s.tlb c).all (entryFits s.cfg) &&
    (!((s.cp0 c).mt == 1) || ((ctxConfig s.cfg c).ftlbWays == 0 && (ctxConfig s.cfg c).ftlbSets == 0)) &&
    ((s.cp0 c).hasInvalid || !(s.cp0 c).entryHi.getLsbD 10) && Other.wf (s.cp0 c).other

/-- A well-formed state: `pc` is a multiple of 4 (R23), register 0 holds 0 (R21), the root context implements the module
and the guest context does not (R7), and the configuration, both contexts and the program text are well formed. -/
def State.wf (s : State) : Bool :=
  s.pcAligned && s.gpr[0] == 0#64 && s.root.vz && !s.guest.vz && configOk s.cfg && ctxOk s .root && ctxOk s .guest &&
    Memory.wf s.mem

/-! ### When the guards of a family pass -/

/-- Root mode with coprocessor 0 enabled, where the guest moves and TLBG instructions run (R216, R242). -/
def RootAccess (s : State) : Prop :=
  s.isRootMode = true ∧ s.root.vz = true ∧ s.modeHasNoMeaning = false ∧ s.cp0Enabled = true

/-- `RootAccess`, and the guest context has a TLB (R130). -/
def GuestTlbAccess (s : State) : Prop := RootAccess s ∧ s.guest.hasTlb = true

/-- Either mode with coprocessor 0 enabled and a TLB in the executing context (R160, R216). -/
def BaseTlbAccess (s : State) : Prop :=
  s.modeHasNoMeaning = false ∧ s.cp0Enabled = true ∧ (s.cp0 s.cur).hasTlb = true

/-- With `MT = 4`, `Index` is below the number of entries (R131). -/
def RangeIndexOk (c : Ctx) (s : State) : Prop := (s.cp0 c).mt = 4 → s.idx c < s.tlbEntries c

/-! ### Frames -/

/-- `t` is `s` after a completed instruction that changed at most the general registers and the guest registers. A `Shared`
register of the root context is unchanged too: the model's choice, assumption 35. -/
def FrameMove (s t : State) : Prop :=
  t = { s with gpr := t.gpr, guest := t.guest, pc := s.pc + 4#64, draws := s.draws + 1 }

/-- `t` is `s` after a completed instruction that changed at most one context's TLB. -/
def FrameTlb (c : Ctx) (s t : State) : Prop :=
  t = { s.setTlb c (t.tlb c) with pc := s.pc + 4#64, draws := s.draws + 1 }

/-- `t` is `s` after a completed instruction that changed at most one context's registers. -/
def FrameCp0 (c : Ctx) (s t : State) : Prop :=
  t = { s.setCp0 c (t.cp0 c) with pc := s.pc + 4#64, draws := s.draws + 1 }

/-! ### Moves -/

/-- Bit `b` of a pair exists: it lies within the table's width, and it is not EHINV of a context that has none (R12, R39). -/
def storedBit (s : State) (rd sel b : Nat) : Bool :=
  ((s.regInfo rd sel).width == .w64 || decide (b < 32)) &&
    !(regName rd sel == .entryHi && decide (s.guest.ie < 2) && b == 10)

/-- What R101 gives a read of a pair that is not `Absent`. -/
def readValue (s : State) (rd sel : Nat) : Word :=
  match (s.regInfo rd sel).cls with
  | .replicated => s.gcpr rd sel
  | .shared => s.gcpr rd sel &&& (s.regInfo rd sel).visible
  | _ => 0#64

/-- A move from the guest left `v` in `x[rt]` and every other general register alone; of the guest's registers only
`Count` and `Random`, which change on their own, may have changed, to the value just read (R101, R221). -/
def MovedFrom (rt rd sel : Nat) (v : Word) (s t : State) : Prop :=
  FrameMove s t ∧ (rt ≠ 0 → t.getGpr rt = v) ∧ t.getGpr 0 = 0#64 ∧ (∀ r, r ≠ rt → t.getGpr r = s.getGpr r) ∧
    (isCount rd sel = false → isRandom rd sel = false → t.guest = s.guest) ∧
    (t.guest = s.guest ∨ t.guest = s.guest.put (regName rd sel) (s.gcpr rd sel))

/-- The bits a move-to changes (R102): those it assigns, of those `writable`, and for a `Shared` register `visible`. -/
def changedBit (s : State) (rd sel : Nat) (m : Word) (b : Nat) : Bool :=
  m.getLsbD b && (s.writableBits rd sel).getLsbD b &&
    ((s.regInfo rd sel).cls != .shared || (s.regInfo rd sel).visible.getLsbD b)

/-- A move to the guest assigned `new` under the mask `m` to a register the guest has, bit by bit, and changed nothing
else (R102); for a `Reserved` or `Not Available` pair it changed nothing at all. -/
def MovedTo (rd sel : Nat) (new m : Word) (s t : State) : Prop :=
  FrameMove s t ∧ t.gpr = s.gpr ∧ (s.regPresent rd sel = false → t.guest = s.guest) ∧
    (s.regPresent rd sel = true →
      (∀ b, b < 64 → (t.guest.get (regName rd sel)).getLsbD b =
        if changedBit s rd sel m b then new.getLsbD b else (s.guest.get (regName rd sel)).getLsbD b) ∧
      ∀ rd' sel', regName rd' sel' ≠ regName rd sel →
        t.guest.get (regName rd' sel') = s.guest.get (regName rd' sel'))

/-! ### TLB instructions -/

/-- Index `i` is in the range R131 selects. -/
def InRange (c : Ctx) (s : State) (i : Nat) : Prop :=
  if (s.cp0 c).mt = 1 then i < s.vtlbEntries c
  else if (s.cp0 c).ie = 2 then
    if s.idx c < s.vtlbEntries c then i < s.vtlbEntries c else i ∈ ftlbSet (ctxConfig s.cfg c) (s.idx c)
  else i < s.tlbEntries c

/-- Exactly the entries of one TLB that are in range and satisfy `hit` were marked invalid; nothing else changed
(R133, R134). -/
def Invalidated (c : Ctx) (hit : TlbEntry → Prop) (s t : State) : Prop :=
  FrameTlb c s t ∧ (t.tlb c).length = (s.tlb c).length ∧
    ∀ i e, (s.tlb c)[i]? = some e →
      (InRange c s i ∧ hit e → (t.tlb c)[i]? = some { e with hardwareInvalid := true }) ∧
      (¬(InRange c s i ∧ hit e) → (t.tlb c)[i]? = some e)

/-- The entry's GuestID is `gid`, where GuestID is supported (R133). -/
def OwnedBy (gid : BitVec 8) (s : State) (e : TlbEntry) : Prop := s.g1 = true → e.guestId = gid

/-- Entry `i` matches what a context's EntryHi asks for (R132, with the GuestID term of R135 and R163). -/
def Matches (c : Ctx) (gid : BitVec 8) (s : State) (i : Nat) : Prop :=
  (s.entry c i).vpn2 &&& ~~~((s.entry c i).mask.setWidth 49) =
      hiVpn2 s.cfg (s.cp0 c).entryHi &&& ~~~((s.entry c i).mask.setWidth 49) ∧
    (s.entry c i).r = hiR (s.cp0 c).entryHi ∧
    ((s.cp0 c).ie < 2 ∨ (s.entry c i).hardwareInvalid = false) ∧
    ((s.entry c i).g = true ∨ (s.entry c i).asid = hiAsid s.cfg (s.cp0 c).entryHi) ∧
    OwnedBy gid s (s.entry c i)

/-- Every FTLB entry sits in the set its VPN2 selects (R135, under `NoTlbConflict`). -/
def FtlbInPlace (c : Ctx) (s : State) : Prop :=
  ∀ i, i < s.tlbEntries c → s.inFtlb c i = true → Config.ftlbVpnConsistent c (s.entry c i).vpn2 i = true

/-- The state after a probe that put `v` into `Index`. -/
def probed (c : Ctx) (v : Half) (s : State) : State := (s.setIndex c v).advance

/-- What R135 and R163 say of a probe: bit 31 of Index after a miss, the one matching entry, or one of several or a Machine
Check. -/
def ProbeOutcome (c : Ctx) (gid : BitVec 8) (s : State) (o : Host.Outcome State Fault Refusal) : Prop :=
  ((∀ i, i < s.tlbEntries c → ¬Matches c gid s i) → ∃ v : Half, v.getLsbD 31 = true ∧ o = .next (probed c v s)) ∧
  (∀ i, i < s.tlbEntries c → Matches c gid s i → (∀ j, j < s.tlbEntries c → Matches c gid s j → j = i) →
    o = .next (probed c (BitVec.ofNat 32 i) s)) ∧
  (∀ i j, i < s.tlbEntries c → j < s.tlbEntries c → i ≠ j → Matches c gid s i → Matches c gid s j →
    (∃ k, k < s.tlbEntries c ∧ Matches c gid s k ∧ o = .next (probed c (BitVec.ofNat 32 k) s)) ∨
    o = .fault (.trap { kind := .machineCheck, takenIn := s.cur, pc := s.pc }))

/-- EntryLo as a TLB read leaves it (R136): PFN (cleared under the mask or not), C, D, V, and the entry's single G; zeros
above, except where the implementation keeps those bits (U17). -/
def LoReads (cfg : Config) (mask : BitVec 16) (pfn : BitVec 24) (c : BitVec 3) (d v g : Bool) (lo : Word) : Prop :=
  lo.extractLsb' 6 24 = (if cfg.tlbMaskOnRead then pfn &&& ~~~(mask.setWidth 24) else pfn) ∧ lo.extractLsb' 3 3 = c ∧
    lo.getLsbD 2 = d ∧ lo.getLsbD 1 = v ∧ lo.getLsbD 0 = g ∧
    (cfg.tlbReadHighBitsAny = false → lo.extractLsb' 30 34 = 0#34)

/-- The registers of a context hold a valid entry, as R136 and R164 lay it out; the other registers are unchanged. -/
def RegsHoldEntry (c : Ctx) (e : TlbEntry) (s t : State) : Prop :=
  (t.cp0 c).entryHi.extractLsb' 62 2 = e.r ∧
    (t.cp0 c).entryHi.extractLsb' 13 49 = (if s.cfg.tlbMaskOnRead then e.vpn2 &&& ~~~(e.mask.setWidth 49) else e.vpn2) ∧
    (t.cp0 c).entryHi.extractLsb' 8 5 = 0#5 ∧ (t.cp0 c).entryHi.extractLsb' 0 8 = e.asid ∧
    LoReads s.cfg e.mask e.pfn0 e.c0 e.d0 e.v0 e.g (t.cp0 c).entryLo0 ∧
    LoReads s.cfg e.mask e.pfn1 e.c1 e.d1 e.v1 e.g (t.cp0 c).entryLo1 ∧
    (t.cp0 c).pageMask.extractLsb' 13 16 = e.mask ∧
    (∀ b, b < 13 ∨ 29 ≤ b → (t.cp0 c).pageMask.getLsbD b = (s.cp0 c).pageMask.getLsbD b) ∧
    t.cp0 c = { s.cp0 c with
      entryHi := (t.cp0 c).entryHi, entryLo0 := (t.cp0 c).entryLo0, entryLo1 := (t.cp0 c).entryLo1,
      pageMask := (t.cp0 c).pageMask }

/-- The registers of a context hold the reading of an invalid entry: zeros, and EHINV (R136, R164). -/
def RegsHoldInvalid (c : Ctx) (s t : State) : Prop :=
  (t.cp0 c).entryHi = (if (s.cp0 c).hasInvalid then 0x400#64 else 0#64) ∧ (t.cp0 c).pageMask.extractLsb' 13 16 = 0#16 ∧
    (∀ b, b < 13 ∨ 29 ≤ b → (t.cp0 c).pageMask.getLsbD b = (s.cp0 c).pageMask.getLsbD b) ∧
    t.cp0 c = { s.cp0 c with
      entryHi := (t.cp0 c).entryHi, entryLo0 := 0#64, entryLo1 := 0#64, pageMask := (t.cp0 c).pageMask }

/-- `GuestCtl1` has `gid` in RID and is otherwise unchanged; without GuestID it is unchanged (R136). -/
def RidBecomes (gid : BitVec 8) (s t : State) : Prop :=
  (s.g1 = false → t.guestCtl1 = s.guestCtl1) ∧
    (s.g1 = true → t.guestCtl1.extractLsb' 16 8 = gid ∧
      ∀ b, b < 16 ∨ 24 ≤ b → t.guestCtl1.getLsbD b = s.guestCtl1.getLsbD b)

/-- `t` is `s` after a completed TLB read: one context's registers and `GuestCtl1` may have changed. -/
def FrameRead (c : Ctx) (s t : State) : Prop :=
  t = { s.setCp0 c (t.cp0 c) with guestCtl1 := t.guestCtl1, pc := s.pc + 4#64, draws := s.draws + 1 }

/-- `e` is what `WriteEntry` puts in the place of `old` (R139): each field from the register that holds it. -/
def WrittenEntry (c : Ctx) (g : Bool) (gid : BitVec 8) (s : State) (old e : TlbEntry) : Prop :=
  e.mask = pmMask s.cfg (s.cp0 c).pageMask ∧ e.r = hiR (s.cp0 c).entryHi ∧
    e.vpn2 = (if s.cfg.tlbMaskOnWrite then
      hiVpn2 s.cfg (s.cp0 c).entryHi &&& ~~~((pmMask s.cfg (s.cp0 c).pageMask).setWidth 49)
      else hiVpn2 s.cfg (s.cp0 c).entryHi) ∧
    e.asid = hiAsid s.cfg (s.cp0 c).entryHi ∧ e.g = g ∧
    e.pfn0 = (if s.cfg.tlbMaskOnWrite then
      loPfn (s.cp0 c).entryLo0 &&& ~~~((pmMask s.cfg (s.cp0 c).pageMask).setWidth 24) else loPfn (s.cp0 c).entryLo0) ∧
    e.c0 = loC (s.cp0 c).entryLo0 ∧ e.d0 = loD (s.cp0 c).entryLo0 ∧ e.v0 = loV (s.cp0 c).entryLo0 ∧
    e.pfn1 = (if s.cfg.tlbMaskOnWrite then
      loPfn (s.cp0 c).entryLo1 &&& ~~~((pmMask s.cfg (s.cp0 c).pageMask).setWidth 24) else loPfn (s.cp0 c).entryLo1) ∧
    e.c1 = loC (s.cp0 c).entryLo1 ∧ e.d1 = loD (s.cp0 c).entryLo1 ∧ e.v1 = loV (s.cp0 c).entryLo1 ∧
    (s.g1 = true → e.guestId = gid) ∧ (s.g1 = false → e.guestId = old.guestId) ∧
    (2 ≤ (s.cp0 c).ie → e.hardwareInvalid = (s.cp0 c).entryHi.getLsbD 10) ∧
    ((s.cp0 c).ie < 2 → e.hardwareInvalid = old.hardwareInvalid)

/-- The premise of R140 for a write of `e` at index `i`: the entry overlaps no other valid entry, and in FTLB range it has
the FTLB's page size and a VPN2 consistent with its index. What overlaps is the model's reading (assumption 12), and so is
the comparison of page sizes as `Mask` values (assumption 14). -/
def NoTlbConflict (c : Ctx) (i : Nat) (e : TlbEntry) (s : State) : Prop :=
  (∀ j, j < s.tlbEntries c → j ≠ i → s.notInvalid c (s.entry c j) = true → s.overlaps e (s.entry c j) = false) ∧
    (s.inFtlb c i = true →
      pmMask s.cfg (s.cp0 c).pageMask = (ctxConfig s.cfg c).ftlbMask ∧ Config.ftlbVpnConsistent c e.vpn2 i = true)

/-- The write is an invalidation (`EHINV = 1`), or the premise of R140 holds for it. -/
def WriteAllowed (c : Ctx) (i : Nat) (g : Bool) (gid : BitVec 8) (s : State) : Prop :=
  (s.cp0 c).ehinv = true ∨ NoTlbConflict c i (newEntry c g gid s (s.entry c i)) s

/-- Entry `i` of one TLB was written from the registers and nothing else changed (R139). -/
def WroteEntry (c : Ctx) (i : Nat) (g : Bool) (gid : BitVec 8) (s t : State) : Prop :=
  FrameTlb c s t ∧ ∃ e, WrittenEntry c g gid s (s.entry c i) e ∧ t.tlb c = (s.tlb c).set i e

/-- A random write may address entry `i` (R138, R166): one of the TLB's, and with `MT = 4` and a page size that is not the
FTLB's one of the VTLB's (page sizes compared as `Mask` values, assumption 14). -/
def Admitted (c : Ctx) (s : State) (i : Nat) : Prop :=
  i < s.tlbEntries c ∧
    ((s.cp0 c).mt = 4 → pmMask s.cfg (s.cp0 c).pageMask ≠ (ctxConfig s.cfg c).ftlbMask → i < s.vtlbEntries c)

/-- As `WroteEntry`, and `Random` of the context may have changed (R138, R166). -/
def WroteEntryAtRandom (c : Ctx) (i : Nat) (g : Bool) (gid : BitVec 8) (s t : State) : Prop :=
  (∃ v, t = { (s.setTlb c (t.tlb c)).setCp0 c { s.cp0 c with random := v } with
    pc := s.pc + 4#64, draws := s.draws + 1 }) ∧
    ∃ e, WrittenEntry c g gid s (s.entry c i) e ∧ t.tlb c = (s.tlb c).set i e

/-- `t` is `u` with some entries of one TLB other than entry `i` marked invalid. -/
def MarkedOthers (c : Ctx) (i : Nat) (u t : State) : Prop :=
  t = u.setTlb c (t.tlb c) ∧ (t.tlb c).length = (u.tlb c).length ∧ (t.tlb c)[i]? = (u.tlb c)[i]? ∧
    ∀ (j : Nat) (e : TlbEntry), (u.tlb c)[j]? = some e →
      (t.tlb c)[j]? = some e ∨ (t.tlb c)[j]? = some { e with hardwareInvalid := true }

/-- The three outcomes R140 admits for a TLB write at index `i`: the write; the write with some other entries marked
invalid; a Machine Check with nothing written. The last two only outside its premise, so never with `EHINV = 1`. -/
def ConflictOutcomes (c : Ctx) (i : Nat) (g : Bool) (gid : BitVec 8) (wrote : State → Prop) (s : State)
    (o : Host.Outcome State Fault Refusal) : Prop :=
  (∃ t, o = .next t ∧ wrote t) ∨
    (¬WriteAllowed c i g gid s ∧ ∃ u t, o = .next t ∧ wrote u ∧ MarkedOthers c i u t) ∨
    (¬WriteAllowed c i g gid s ∧ o = .fault (.trap { kind := .machineCheck, takenIn := s.cur, pc := s.pc }))

/-- The G bit of TLBWI and TLBWR (R165): 1 for a root-mode write with `RID` not 0 while `RAD = 0`, else the AND. -/
def baseG (s : State) : Bool :=
  if s.g1 = true ∧ s.rad = false ∧ s.isRootMode = true ∧ s.rid ≠ 0#8 then true
  else loG (s.cp0 s.cur).entryLo1 && loG (s.cp0 s.cur).entryLo0

/-- Two outcomes agree on the guest: next states with the same guest registers and guest TLB, the same refusal, or a trap
of the same kind. -/
def AgreeOnGuest : Host.Outcome State Fault Refusal → Host.Outcome State Fault Refusal → Prop
  | .next a, .next b => a.guest = b.guest ∧ a.guestTlb = b.guestTlb
  | .refused a, .refused b => a = b
  | .fault (.trap a), .fault (.trap b) => a.kind = b.kind
  | _, _ => False

end Sys2Proof.Machine
end

