-- ==== Sys2Proof/Certificates/Slice0/Obligations.lean ====
section
/-! DEFINITION. The statements for the provers, from the spec's numbered rules. -/

open Sys2Proof Sys2Proof.Machine

/-! ### Encoding -/

/-- Decoding the word of a well-formed instruction, alone or as bytes in either byte order, gives the instruction back
(R71 to R75, R87). -/
def Obligations.EncodeThenDecodeIsIdentity : Prop :=
  ∀ i : Instr, i.wf = true →
    decodeWord (encode i) = .ok i ∧
      ∀ (big : Bool) (rest : List Byte), decode big (wordToBytes big (encode i) ++ rest) = .ok (i, rest)

/-- A word that decodes decodes to a well-formed instruction, whose word it is: each instruction has one word (R76). -/
def Obligations.DecodedWordIsItsEncoding : Prop :=
  ∀ (w : Half) (i : Instr), decodeWord w = .ok i → i.wf = true ∧ encode i = w

/-- Each format `GM` row of R74 is decoded from exactly the words with its match under its mask, with `rt = w[20:16]`,
`rd = w[15:11]`, `sel = w[2:0]`; that the words of `sub` 101 and 111 are no instruction is the spec's own decision (D13,
assumption 28). -/
def Obligations.GuestMoveRowsMatchUnderMask : Prop :=
  ∀ w : Half,
    (decodeWord w = .ok (.mfgc0 (w.extractLsb' 16 5).toNat (w.extractLsb' 11 5).toNat (w.extractLsb' 0 3).toNat) ↔
      w &&& 0xFFE007F8#32 = 0x40600000#32) ∧
    (decodeWord w = .ok (.dmfgc0 (w.extractLsb' 16 5).toNat (w.extractLsb' 11 5).toNat (w.extractLsb' 0 3).toNat) ↔
      w &&& 0xFFE007F8#32 = 0x40600100#32) ∧
    (decodeWord w = .ok (.mtgc0 (w.extractLsb' 16 5).toNat (w.extractLsb' 11 5).toNat (w.extractLsb' 0 3).toNat) ↔
      w &&& 0xFFE007F8#32 = 0x40600200#32) ∧
    (decodeWord w = .ok (.dmtgc0 (w.extractLsb' 16 5).toNat (w.extractLsb' 11 5).toNat (w.extractLsb' 0 3).toNat) ↔
      w &&& 0xFFE007F8#32 = 0x40600300#32) ∧
    (decodeWord w = .ok (.mfhgc0 (w.extractLsb' 16 5).toNat (w.extractLsb' 11 5).toNat (w.extractLsb' 0 3).toNat) ↔
      w &&& 0xFFE007F8#32 = 0x40600400#32) ∧
    (decodeWord w = .ok (.mthgc0 (w.extractLsb' 16 5).toNat (w.extractLsb' 11 5).toNat (w.extractLsb' 0 3).toNat) ↔
      w &&& 0xFFE007F8#32 = 0x40600600#32) ∧
    (w &&& 0xFFE007F8#32 = 0x40600500#32 ∨ w &&& 0xFFE007F8#32 = 0x40600700#32 →
      decodeWord w = .error (.notInSpec w))

/-- R75: each format `CO` row is decoded from exactly one word. -/
def Obligations.TlbRowsAreSingleWords : Prop :=
  ∀ w : Half,
    (decodeWord w = .ok .tlbr ↔ w = 0x42000001#32) ∧ (decodeWord w = .ok .tlbwi ↔ w = 0x42000002#32) ∧
    (decodeWord w = .ok .tlbinv ↔ w = 0x42000003#32) ∧ (decodeWord w = .ok .tlbinvf ↔ w = 0x42000004#32) ∧
    (decodeWord w = .ok .tlbwr ↔ w = 0x42000006#32) ∧ (decodeWord w = .ok .tlbp ↔ w = 0x42000008#32) ∧
    (decodeWord w = .ok .tlbgr ↔ w = 0x42000009#32) ∧ (decodeWord w = .ok .tlbgwi ↔ w = 0x4200000A#32) ∧
    (decodeWord w = .ok .tlbginv ↔ w = 0x4200000B#32) ∧ (decodeWord w = .ok .tlbginvf ↔ w = 0x4200000C#32) ∧
    (decodeWord w = .ok .tlbgwr ↔ w = 0x4200000E#32) ∧ (decodeWord w = .ok .tlbgp ↔ w = 0x42000010#32)

/-- Words written out in the spec (R87 and vectors E7, E14, E20, E24) decode to what the spec says they are. -/
def Obligations.SampleWordsDecodeAsPrinted : Prop :=
  decodeWord 0x40625100#32 = .ok (.dmfgc0 2 10 0) ∧ decodeWord 0x407FF807#32 = .ok (.mfgc0 31 31 7) ∧
    decodeWord 0x40655300#32 = .ok (.dmtgc0 5 10 0) ∧ decodeWord 0x40681600#32 = .ok (.mthgc0 8 2 0) ∧
    decodeWord 0x4200000E#32 = .ok .tlbgwr ∧ decodeWord 0x42000006#32 = .ok .tlbwr ∧
    decodeWord 0x40600008#32 = .error (.notInSpec 0x40600008#32)

/-! ### Steps -/

/-- Where the bytes at an aligned `pc` decode to an instruction, a step is that instruction's `exec`, nothing around it. -/
def Obligations.StepRunsTheDecodedInstruction : Prop :=
  ∀ (s : State) (bytes : List Byte) (i : Instr) (rest : List Byte), s.pc.toNat % 4 = 0 →
    memRead s.mem s.pc 4 = some bytes → decode s.cfg.bigEndian bytes = .ok (i, rest) → step s = exec i s

/-- R77: a fetched word that matches no row is refused as `NotInSpec`; it raises no Reserved Instruction. R62: so is a
`pc` that is not a multiple of 4, under its own name. -/
def Obligations.StepRefusesWhatIsNotInTheTable : Prop :=
  (∀ (s : State) (b0 b1 b2 b3 : Byte), s.pc.toNat % 4 = 0 → memRead s.mem s.pc 4 = some [b0, b1, b2, b3] →
    (∀ i, i.wf = true → encode i ≠ bytesToWord s.cfg.bigEndian b0 b1 b2 b3) →
    step s = .refused (.notInSpec (bytesToWord s.cfg.bigEndian b0 b1 b2 b3))) ∧
  ∀ s : State, s.pc.toNat % 4 ≠ 0 → step s = .refused (.pcMisaligned s.pc)

/-- A word stored at `pc` in the state's byte order is the word a step runs: for a well-formed instruction at an aligned
`pc`, the next step is its `exec` (the model's own loading, assumption 8). -/
def Obligations.StoredInstructionIsRunNext : Prop :=
  ∀ (s : State) (i : Instr), s.pc.toNat % 4 = 0 → i.wf = true →
    step (s.withFetchWord 32 (encode i).toNat) = exec i (s.withFetchWord 32 (encode i).toNat)

/-- The reset state is well formed, in root mode, in kernel mode and starts at the reset vector. The spec fixes no reset
state: these are the values assumptions 3 to 5 choose (R241 records them as not binding). -/
def Obligations.ResetIsAWellFormedRootKernelLaunch : Prop :=
  State.reset.wf = true ∧ State.reset.isRootMode = true ∧ State.reset.root.kernelMode = true ∧
    State.reset.root.erl = true ∧ State.reset.gm = false ∧ State.reset.pc = 0xFFFFFFFFBFC00000#64

/-- Every step keeps a well-formed state well formed: `pc` aligned, register 0 zero, the Virtualization Module in the root
context only, TLB sizes and entry widths, EHINV, the program text. -/
def Obligations.StepKeepsStateWellFormed : Prop :=
  ∀ s t : State, s.wf = true → step s = .next t → t.wf = true

/-- R202: guest mode and root mode are the stated functions of four root bits and each other's negation, and no instruction
writes any of the four, so the mode is constant along a run. -/
def Obligations.ModeIsAFunctionOfFourBitsAndConstant : Prop :=
  (∀ s : State, s.isGuestMode = true ↔ s.gm = true ∧ s.dm = false ∧ s.root.erl = false ∧ s.root.exl = false) ∧
  (∀ s : State, s.isRootMode = true ↔
    s.gm = false ∨ (s.gm = true ∧ (s.dm = true ∨ s.root.erl = true ∨ s.root.exl = true))) ∧
  (∀ s : State, s.isRootMode = !s.isGuestMode) ∧
  ∀ (i : Instr) (s t : State), exec i s = .next t →
    t.gm = s.gm ∧ t.dm = s.dm ∧ t.root.erl = s.root.erl ∧ t.root.exl = s.root.exl ∧
      t.isGuestMode = s.isGuestMode ∧ t.isRootMode = s.isRootMode

/-- No instruction writes memory, the configuration, `GuestCtl0` or `Debug`, and every completed instruction moves `pc` on
by 4 (R23, R60). That `GuestCtl0` and `Debug` stay is R202's; that the configuration does is the model's choice of holding
the parameters in State, assumption 2. -/
def Obligations.EveryInstructionKeepsMemoryAndAdvances : Prop :=
  ∀ (i : Instr) (s t : State), exec i s = .next t →
    (∀ a : Nat, memGet t.mem a = memGet s.mem a) ∧ t.cfg = s.cfg ∧ t.guestCtl0 = s.guestCtl0 ∧ t.debugReg = s.debugReg ∧
      t.pc = s.pc + 4#64

/-- The read-only configuration fields of both contexts (R42, R43, R48) never change, whatever the register table allows. -/
def Obligations.ConfigurationFieldsAreConstant : Prop :=
  ∀ (i : Instr) (s t : State) (c : Ctx), exec i s = .next t →
    (t.cp0 c).mt = (s.cp0 c).mt ∧ (t.cp0 c).ie = (s.cp0 c).ie ∧ (t.cp0 c).vz = (s.cp0 c).vz ∧
      (t.cp0 c).lpa = (s.cp0 c).lpa ∧
      (t.cp0 c).config1.extractLsb' 25 6 = (s.cp0 c).config1.extractLsb' 25 6 ∧
      (t.cp0 c).config4.extractLsb' 0 8 = (s.cp0 c).config4.extractLsb' 0 8 ∧ t.g1 = s.g1

/-- A guest cannot reach root's state: a step in guest mode leaves the root registers, the root TLB, `GuestCtl0`,
`GuestCtl1`, `Debug` and every general register as they were (R216). -/
def Obligations.GuestModeStepLeavesRootAlone : Prop :=
  ∀ s t : State, s.isGuestMode = true → s.guest.vz = false → step s = .next t →
    t.root = s.root ∧ t.rootTlb = s.rootTlb ∧ t.guestCtl0 = s.guestCtl0 ∧ t.guestCtl1 = s.guestCtl1 ∧
      t.debugReg = s.debugReg ∧ t.gpr = s.gpr

/-- In root mode each instruction keeps to its context: the guest moves and TLBG instructions leave the root registers and
TLB, the base TLB instructions the guest's; only TLBGR and TLBR change `GuestCtl1` (R30, R216). That a move to a `Shared`
guest register leaves the root's is the model's choice (assumption 35). -/
def Obligations.RootModeInstructionsKeepToTheirContext : Prop :=
  ∀ (i : Instr) (s t : State), s.isRootMode = true → exec i s = .next t →
    (i ∈ [.tlbinv, .tlbinvf, .tlbp, .tlbr, .tlbwi, .tlbwr] → t.guest = s.guest ∧ t.guestTlb = s.guestTlb) ∧
    (i ∉ [.tlbinv, .tlbinvf, .tlbp, .tlbr, .tlbwi, .tlbwr] → t.root = s.root ∧ t.rootTlb = s.rootTlb) ∧
    (i ≠ .tlbgr → i ≠ .tlbr → t.guestCtl1 = s.guestCtl1) ∧
    ((∀ rt rd sel, i ≠ .dmfgc0 rt rd sel ∧ i ≠ .mfgc0 rt rd sel ∧ i ≠ .mfhgc0 rt rd sel) → t.gpr = s.gpr)

/-- Register 0 reads 0 and a write to it is discarded; another register reads what was last written to it and a write
leaves the others alone (R21). -/
def Obligations.GeneralRegistersReadBackAndZeroIsFixed : Prop :=
  ∀ (s : State) (v : Word),
    s.getGpr 0 = 0#64 ∧ s.setGpr 0 v = s ∧
      ∀ r, 0 < r → r < 32 → (s.setGpr r v).getGpr r = v ∧ ∀ q, q ≠ r → (s.setGpr r v).getGpr q = s.getGpr q

/-! ### Exceptions -/

/-- With coprocessor 0 not enabled every instruction raises Coprocessor Unusable, coprocessor 0, in the executing mode's
context, at its own pc (R201, R207, R208, R216). -/
def Obligations.DisabledCoprocessorTrapsEveryInstruction : Prop :=
  ∀ (i : Instr) (s : State), s.modeHasNoMeaning = false → s.cp0Enabled = false →
    exec i s = .fault (.trap
      { kind := .coprocessorUnusable 0, takenIn := if s.isGuestMode then .guest else .root, pc := s.pc })

/-- In guest mode with coprocessor 0 enabled, the twelve guest-access instructions raise Reserved Instruction, taken in
guest mode (R201, R208). -/
def Obligations.GuestUseOfGuestAccessIsReserved : Prop :=
  ∀ (i : Instr) (s : State), s.isGuestMode = true → s.guest.vz = false → s.modeHasNoMeaning = false →
    s.cp0Enabled = true → i ∉ [.tlbinv, .tlbinvf, .tlbp, .tlbr, .tlbwi, .tlbwr] →
    exec i s = .fault (.trap { kind := .reservedInstruction, takenIn := .guest, pc := s.pc })

/-- DMFGC0 and DMTGC0 raise Reserved Instruction where 64-bit operations are not enabled (R100, R201). -/
def Obligations.DoublewordMovesNeed64BitOperations : Prop :=
  ∀ (s : State) (rt rd sel : Nat), RootAccess s → s.ops64Enabled = false →
    exec (.dmfgc0 rt rd sel) s = .fault (.trap { kind := .reservedInstruction, takenIn := .root, pc := s.pc }) ∧
    exec (.dmtgc0 rt rd sel) s = .fault (.trap { kind := .reservedInstruction, takenIn := .root, pc := s.pc })

/-- With `Config4.IE` below 2 the invalidate instructions of that context raise Reserved Instruction (R79, R201). -/
def Obligations.InvalidateNeedsIeAtLeastTwo : Prop :=
  (∀ s : State, GuestTlbAccess s → s.guest.ie < 2 →
    exec .tlbginv s = .fault (.trap { kind := .reservedInstruction, takenIn := .root, pc := s.pc }) ∧
    exec .tlbginvf s = .fault (.trap { kind := .reservedInstruction, takenIn := .root, pc := s.pc })) ∧
  ∀ s : State, BaseTlbAccess s → (s.cp0 s.cur).ie < 2 →
    exec .tlbinv s = .fault (.trap { kind := .reservedInstruction, takenIn := s.cur, pc := s.pc }) ∧
    exec .tlbinvf s = .fault (.trap { kind := .reservedInstruction, takenIn := s.cur, pc := s.pc })

/-- Every trap names the executing mode's context and the pc of the instruction that raised it (R208, R210). -/
def Obligations.TrapsArePreciseAndTakenInTheExecutingMode : Prop :=
  ∀ (i : Instr) (s : State) (tr : Trap), exec i s = .fault (.trap tr) →
    tr.pc = s.pc ∧ tr.takenIn = (if s.isGuestMode then .guest else .root) ∧
      (tr.kind = .coprocessorUnusable 0 ∨ tr.kind = .reservedInstruction ∨ tr.kind = .machineCheck)

/-- No Machine Check without its cause: a trap of a probe under which at most one entry matches, and of a TLB write with
`EHINV = 1` or within the premise of R140, at Index for an indexed write and at every admitted entry for a random one, is a
Coprocessor Unusable or a Reserved Instruction; so is every trap of another instruction (R135, R140, R163, R201, R211).
The premise rests on assumptions 12 (what overlaps) and 14 (page sizes as `Mask` values), the admitted entries on 11. -/
def Obligations.MachineCheckOnlyFromConflicts : Prop :=
  ∀ (i : Instr) (s : State) (tr : Trap), exec i s = .fault (.trap tr) →
    (i = .tlbgp → ∀ j k, j < s.tlbEntries .guest → k < s.tlbEntries .guest →
      Matches .guest s.rid s j → Matches .guest s.rid s k → j = k) →
    (i = .tlbp → ∀ j k, j < s.tlbEntries s.cur → k < s.tlbEntries s.cur →
      Matches s.cur s.curGid s j → Matches s.cur s.curGid s k → j = k) →
    (i = .tlbgwi → WriteAllowed .guest s.guest.index.toNat (s.gAnd .guest) s.rid s) →
    (i = .tlbgwr → ∀ k, Admitted .guest s k → WriteAllowed .guest k (s.gAnd .guest) s.rid s) →
    (i = .tlbwi → WriteAllowed s.cur (s.cp0 s.cur).index.toNat (baseG s) s.curGid s) →
    (i = .tlbwr → ∀ k, Admitted s.cur s k → WriteAllowed s.cur k (baseG s) s.curGid s) →
    tr.kind = .coprocessorUnusable 0 ∨ tr.kind = .reservedInstruction

/-- The UNDEFINED cases of the moves have no next state: an absent register, a 32-bit register for a doubleword move,
`Guest.Count` as a destination, a register that is not extended, an XPA register without XPA (R101 to R108). Only the
doubleword moves need 64-bit operations for it (R100). -/
def Obligations.UndefinedMovesAreRefused : Prop :=
  ∀ (s : State) (rt rd sel : Nat), RootAccess s →
    ((s.regInfo rd sel).cls = .absent →
      exec (.mfgc0 rt rd sel) s = .refused (.noSuchGuestRegister rd sel) ∧
      exec (.mfhgc0 rt rd sel) s = .refused (.noSuchGuestRegister rd sel) ∧
      exec (.mthgc0 rt rd sel) s = .refused (.noSuchGuestRegister rd sel) ∧
      (isCount rd sel = false → exec (.mtgc0 rt rd sel) s = .refused (.noSuchGuestRegister rd sel)) ∧
      (s.ops64Enabled = true → exec (.dmfgc0 rt rd sel) s = .refused (.noSuchGuestRegister rd sel)) ∧
      (s.ops64Enabled = true → isCount rd sel = false →
        exec (.dmtgc0 rt rd sel) s = .refused (.noSuchGuestRegister rd sel))) ∧
    (isCount rd sel = true →
      exec (.mtgc0 rt rd sel) s = .refused .guestCountIsReadOnly ∧
      (s.ops64Enabled = true → exec (.dmtgc0 rt rd sel) s = .refused .guestCountIsReadOnly)) ∧
    (s.ops64Enabled = true → s.regPresent rd sel = true → (s.regInfo rd sel).width = .w32 →
      exec (.dmfgc0 rt rd sel) s = .refused (.guestRegisterIs32Bit rd sel) ∧
      (isCount rd sel = false → exec (.dmtgc0 rt rd sel) s = .refused (.guestRegisterIs32Bit rd sel))) ∧
    (s.regPresent rd sel = true → (s.regInfo rd sel).extended = false →
      exec (.mfhgc0 rt rd sel) s = .refused (.guestRegisterNotExtended rd sel) ∧
      exec (.mthgc0 rt rd sel) s = .refused (.guestRegisterNotExtended rd sel)) ∧
    (s.regPresent rd sel = true → (s.regInfo rd sel).extended = true → (s.regInfo rd sel).xpaOnly = true →
      s.xpaEnabled = false →
      exec (.mfhgc0 rt rd sel) s = .refused (.xpaNotEnabled rd sel) ∧
      exec (.mthgc0 rt rd sel) s = .refused (.xpaNotEnabled rd sel))

/-- With no TLB in the context a TLB instruction works on it is UNDEFINED, and has no next state (R130, R160). -/
def Obligations.TlbInstructionsWithoutATlbAreRefused : Prop :=
  (∀ (i : Instr) (s : State), RootAccess s → s.guest.mt ≠ 1 → s.guest.mt ≠ 4 →
    i ∈ [.tlbginv, .tlbginvf, .tlbgp, .tlbgr, .tlbgwi, .tlbgwr] → exec i s = .refused .noTlb) ∧
  ∀ (i : Instr) (s : State), s.modeHasNoMeaning = false → s.cp0Enabled = true → (s.cp0 s.cur).mt ≠ 1 →
    (s.cp0 s.cur).mt ≠ 4 → i ∈ [.tlbinv, .tlbinvf, .tlbp, .tlbr, .tlbwi, .tlbwr] → exec i s = .refused .noTlb

/-- An index beyond the TLB is UNDEFINED, and has no next state: for the reads and indexed writes always, for the
invalidate instructions with `MT = 4` (R131, R136, R137, R164, R165). -/
def Obligations.IndexBeyondTheTlbIsRefused : Prop :=
  (∀ s : State, GuestTlbAccess s → s.tlbEntries .guest ≤ s.guest.index.toNat →
    exec .tlbgr s = .refused .indexBeyondTlb ∧ exec .tlbgwi s = .refused .indexBeyondTlb ∧
      (s.guest.mt = 4 → 2 ≤ s.guest.ie →
        exec .tlbginv s = .refused .indexBeyondTlb ∧ exec .tlbginvf s = .refused .indexBeyondTlb)) ∧
  ∀ s : State, BaseTlbAccess s → s.tlbEntries s.cur ≤ (s.cp0 s.cur).index.toNat →
    exec .tlbr s = .refused .indexBeyondTlb ∧ exec .tlbwi s = .refused .indexBeyondTlb ∧
      ((s.cp0 s.cur).mt = 4 → 2 ≤ (s.cp0 s.cur).ie →
        exec .tlbinv s = .refused .indexBeyondTlb ∧ exec .tlbinvf s = .refused .indexBeyondTlb)

/-! ### Guest moves -/

/-- The register numbers of R28: each pair names the field of the context that holds its register, a 32-bit one
zero-extended (assumptions 18 and 25). -/
def Obligations.RegisterNumbersNameTheRegisters : Prop :=
  ∀ k : Cp0,
    k.get (regName 0 0) = k.index.setWidth 64 ∧ k.get (regName 1 0) = k.random.setWidth 64 ∧
    k.get (regName 2 0) = k.entryLo0 ∧ k.get (regName 3 0) = k.entryLo1 ∧
    k.get (regName 5 0) = k.pageMask.setWidth 64 ∧ k.get (regName 5 1) = k.pageGrain.setWidth 64 ∧
    k.get (regName 6 0) = k.wired.setWidth 64 ∧ k.get (regName 9 0) = k.count.setWidth 64 ∧
    k.get (regName 10 0) = k.entryHi ∧ k.get (regName 12 0) = k.status.setWidth 64 ∧
    k.get (regName 16 0) = k.config.setWidth 64 ∧ k.get (regName 16 1) = k.config1.setWidth 64 ∧
    k.get (regName 16 3) = k.config3.setWidth 64 ∧ k.get (regName 16 4) = k.config4.setWidth 64 ∧
    ∀ sel : Fin 8, k.get (regName 19 sel) = k.watchHi[sel].setWidth 64

/-- What a move from the guest finds in a pair other than Count and Random: of a register the guest has, bit by bit, the
stored image cut to the table's width, less the bits a `Shared` register hides, with EHINV 0 where it does not exist
(assumption 21); 0 of a `Reserved` or `Not Available` pair (R11, R27, R39, R101). -/
def Obligations.ReadsFindTheStoredRegister : Prop :=
  ∀ (s : State) (rd sel : Nat), isCount rd sel = false → isRandom rd sel = false →
    ((s.regInfo rd sel).cls = .replicated → ∀ b, b < 64 → (readValue s rd sel).getLsbD b =
      ((s.guest.get (regName rd sel)).getLsbD b && storedBit s rd sel b)) ∧
    ((s.regInfo rd sel).cls = .shared → ∀ b, b < 64 → (readValue s rd sel).getLsbD b =
      ((s.guest.get (regName rd sel)).getLsbD b && storedBit s rd sel b && (s.regInfo rd sel).visible.getLsbD b)) ∧
    ((s.regInfo rd sel).cls = .reservedArchImpl ∨ (s.regInfo rd sel).cls = .notAvailable → readValue s rd sel = 0#64)

/-- DMFGC0 copies all 64 bits of what the register reads as into `x[rt]` and changes nothing else (R101, R103). -/
def Obligations.Dmfgc0CopiesTheWholeRegister : Prop :=
  ∀ (s : State) (rt rd sel : Nat), rt < 32 → RootAccess s → s.ops64Enabled = true →
    (s.regInfo rd sel).cls ≠ .absent → (s.regPresent rd sel = true → (s.regInfo rd sel).width = .w64) →
    ∃ t, exec (.dmfgc0 rt rd sel) s = .next t ∧ MovedFrom rt rd sel (readValue s rd sel) s t

/-- DMTGC0 assigns `x[rt]` to the changeable bits of the register and changes nothing else, a `Shared` register of the root
context included (R102, R104; the last by assumption 35). The read-only configuration fields (assumption 20), and EHINV
where it does not exist (D14), are not changeable. -/
def Obligations.Dmtgc0AssignsTheWholeRegister : Prop :=
  ∀ (s : State) (rt rd sel : Nat), s.wf = true → RootAccess s → s.ops64Enabled = true → isCount rd sel = false →
    (s.regInfo rd sel).cls ≠ .absent → (s.regPresent rd sel = true → (s.regInfo rd sel).width = .w64) →
    ∃ t, exec (.dmtgc0 rt rd sel) s = .next t ∧ MovedTo rd sel (s.getGpr rt) (BitVec.allOnes 64) s t

/-- MFGC0 of EntryLo0 or EntryLo1: bits 29:0 in place, RI and XI at bits 31 and 30, bits 63:32 copies of RI (R105). -/
def Obligations.Mfgc0OfEntryLoMovesRiXi : Prop :=
  ∀ (s : State) (rt rd sel : Nat), rt < 32 → RootAccess s → isEntryLo rd sel = true →
    (s.regInfo rd sel).cls ≠ .absent →
    ∃ t v, exec (.mfgc0 rt rd sel) s = .next t ∧ MovedFrom rt rd sel v s t ∧
      v.extractLsb' 0 30 = (readValue s rd sel).extractLsb' 0 30 ∧
      v.getLsbD 31 = (readValue s rd sel).getLsbD 63 ∧ v.getLsbD 30 = (readValue s rd sel).getLsbD 62 ∧
      ∀ b, 32 ≤ b → b < 64 → v.getLsbD b = (readValue s rd sel).getLsbD 63

/-- MFGC0 of any other register: its low 32 bits, sign-extended (R105). -/
def Obligations.Mfgc0SignExtendsTheLowHalf : Prop :=
  ∀ (s : State) (rt rd sel : Nat), rt < 32 → RootAccess s → isEntryLo rd sel = false →
    (s.regInfo rd sel).cls ≠ .absent →
    ∃ t v, exec (.mfgc0 rt rd sel) s = .next t ∧ MovedFrom rt rd sel v s t ∧
      v.extractLsb' 0 32 = (readValue s rd sel).extractLsb' 0 32 ∧
      ∀ b, 32 ≤ b → b < 64 → v.getLsbD b = (readValue s rd sel).getLsbD 31

/-- MFHGC0 of EntryLo0 or EntryLo1 with XPA enabled: register bits 31:30 at result bits 1:0 and 61:32 at 31:2,
sign-extended from bit 61; where RI/XI are not supported result bits 1:0 are 0 (R106, R108). -/
def Obligations.Mfhgc0OfEntryLoUndoesTheShift : Prop :=
  ∀ (s : State) (rt rd sel : Nat), rt < 32 → RootAccess s → isEntryLo rd sel = true → s.regPresent rd sel = true →
    (s.regInfo rd sel).extended = true → s.xpaEnabled = true →
    ∃ t v, exec (.mfhgc0 rt rd sel) s = .next t ∧ MovedFrom rt rd sel v s t ∧
      (s.cfg.rixiSupported = true → v.extractLsb' 0 2 = (readValue s rd sel).extractLsb' 30 2) ∧
      (s.cfg.rixiSupported = false → v.extractLsb' 0 2 = 0#2) ∧
      v.extractLsb' 2 30 = (readValue s rd sel).extractLsb' 32 30 ∧
      ∀ b, 32 ≤ b → b < 64 → v.getLsbD b = (readValue s rd sel).getLsbD 61

/-- MFHGC0 of any other extended register: its bits 63:32, sign-extended; 0 for a pair that reads as 0 (R101, R106). -/
def Obligations.Mfhgc0SignExtendsTheHighHalf : Prop :=
  ∀ (s : State) (rt rd sel : Nat), rt < 32 → RootAccess s → isEntryLo rd sel = false →
    (s.regInfo rd sel).cls ≠ .absent → (s.regPresent rd sel = true → (s.regInfo rd sel).extended = true ∧
      ((s.regInfo rd sel).xpaOnly = false ∨ s.xpaEnabled = true)) →
    ∃ t v, exec (.mfhgc0 rt rd sel) s = .next t ∧ MovedFrom rt rd sel v s t ∧
      v.extractLsb' 0 32 = (readValue s rd sel).extractLsb' 32 32 ∧
      ∀ b, 32 ≤ b → b < 64 → v.getLsbD b = (readValue s rd sel).getLsbD 63

/-- MTGC0 to EntryLo0 or EntryLo1: bits 29:0 in place, bits 31 and 30 to RI and XI, bits 61:30 assigned 0 (R102, R107). -/
def Obligations.Mtgc0ToEntryLoPlacesRiXi : Prop :=
  ∀ (s : State) (rt rd sel : Nat), s.wf = true → RootAccess s → isEntryLo rd sel = true →
    ∃ t new, exec (.mtgc0 rt rd sel) s = .next t ∧ MovedTo rd sel new (BitVec.allOnes 64) s t ∧
      new.extractLsb' 0 30 = (s.getGpr rt).extractLsb' 0 30 ∧ new.extractLsb' 30 32 = 0#32 ∧
      new.getLsbD 63 = (s.getGpr rt).getLsbD 31 ∧ new.getLsbD 62 = (s.getGpr rt).getLsbD 30

/-- MTGC0 to any other register: all 64 bits to a 64-bit register, the low 32 to a 32-bit one (D16), on its changeable bits:
the read-only configuration fields (assumption 20), and EHINV where it does not exist (D14), are not changeable (R102,
R107). Nothing else changes, a `Shared` register of the root context included (assumption 35). -/
def Obligations.Mtgc0WritesTheRegistersWidth : Prop :=
  ∀ (s : State) (rt rd sel : Nat), s.wf = true → RootAccess s → isEntryLo rd sel = false → isCount rd sel = false →
    (s.regInfo rd sel).cls ≠ .absent →
    ∃ t, exec (.mtgc0 rt rd sel) s = .next t ∧
      MovedTo rd sel (s.getGpr rt)
        (match (s.regInfo rd sel).width with | .w32 => 0x00000000FFFFFFFF#64 | .w64 => 0xFFFFFFFFFFFFFFFF#64) s t

/-- MTHGC0 to EntryLo0 or EntryLo1 with XPA enabled: bits 1:0 to 31:30, the `PABITS - 36` low bits of 31:2 to 61:32, the
rest of 61:32 cleared, bits 63:62 and 29:0 kept (R102, R108, D19). -/
def Obligations.Mthgc0ToEntryLoFillsBits61To30 : Prop :=
  ∀ (s : State) (rt rd sel : Nat), s.wf = true → RootAccess s → isEntryLo rd sel = true → s.xpaEnabled = true →
    ∃ t new, exec (.mthgc0 rt rd sel) s = .next t ∧ MovedTo rd sel new 0x3FFFFFFFC0000000#64 s t ∧
      new.extractLsb' 30 2 = (s.getGpr rt).extractLsb' 0 2 ∧
      ∀ b, b < 30 → new.getLsbD (32 + b) = (decide (b < s.cfg.paBits - 36) && (s.getGpr rt).getLsbD (2 + b))

/-- MTHGC0 to any other extended register: `x[rt][31:0]` to bits 63:32, bits 31:0 kept; ignored for a pair whose writes
are ignored. The read-only configuration fields are not changeable (assumption 20; R102, R108). Nothing else changes, a
`Shared` register of the root context included (assumption 35). -/
def Obligations.Mthgc0WritesTheHighHalf : Prop :=
  ∀ (s : State) (rt rd sel : Nat), s.wf = true → RootAccess s → isEntryLo rd sel = false →
    (s.regInfo rd sel).cls ≠ .absent → (s.regPresent rd sel = true → (s.regInfo rd sel).extended = true ∧
      ((s.regInfo rd sel).xpaOnly = false ∨ s.xpaEnabled = true)) →
    ∃ t new, exec (.mthgc0 rt rd sel) s = .next t ∧ MovedTo rd sel new 0xFFFFFFFF00000000#64 s t ∧
      new.extractLsb' 32 32 = (s.getGpr rt).extractLsb' 0 32

/-- R111 (a): for a fully writable `Replicated` 64-bit register other than Random and Count, DMTGC0 then DMFGC0 returns
the value written. -/
def Obligations.DoublewordMoveRoundTrip : Prop :=
  ∀ (s t u : State) (r q rd sel : Nat), s.wf = true → 0 < q → q < 32 → (s.regInfo rd sel).cls = .replicated →
    s.writableBits rd sel = BitVec.allOnes 64 → isCount rd sel = false → isRandom rd sel = false →
    exec (.dmtgc0 r rd sel) s = .next t → exec (.dmfgc0 q rd sel) t = .next u → u.getGpr q = s.getGpr r

/-- R111 (b) to (d): for fully writable EntryLo0 or EntryLo1, MTGC0 then MFGC0 returns the sign-extended low half;
MTHGC0 then MFHGC0 returns what MTHGC0 placed; MTGC0 clears what MTHGC0 wrote, and MTHGC0 keeps what MTGC0 wrote. -/
def Obligations.EntryLoMoveRoundTrips : Prop :=
  ∀ (s t u : State) (r q rd : Nat), s.wf = true → 0 < q → q < 32 → rd = 2 ∨ rd = 3 →
    s.writableBits rd 0 = BitVec.allOnes 64 →
    (exec (.mtgc0 r rd 0) s = .next t → exec (.mfgc0 q rd 0) t = .next u →
      u.getGpr q = ((s.getGpr r).extractLsb' 0 32).signExtend 64) ∧
    (66 ≤ s.cfg.paBits → s.cfg.rixiSupported = true → exec (.mthgc0 r rd 0) s = .next t →
      exec (.mfhgc0 q rd 0) t = .next u → u.getGpr q = ((s.getGpr r).extractLsb' 0 32).signExtend 64) ∧
    (36 < s.cfg.paBits → s.cfg.paBits < 66 → s.cfg.rixiSupported = true → exec (.mthgc0 r rd 0) s = .next t →
      exec (.mfhgc0 q rd 0) t = .next u →
      ∀ b, b < 64 → (u.getGpr q).getLsbD b = (decide (b < s.cfg.paBits - 34) && (s.getGpr r).getLsbD b)) ∧
    (exec (.mtgc0 r rd 0) s = .next t → (t.guest.get (regName rd 0)).extractLsb' 30 32 = 0#32) ∧
    (exec (.mthgc0 r rd 0) s = .next t →
      (t.guest.get (regName rd 0)).extractLsb' 62 2 = (s.guest.get (regName rd 0)).extractLsb' 62 2 ∧
      (t.guest.get (regName rd 0)).extractLsb' 0 30 = (s.guest.get (regName rd 0)).extractLsb' 0 30)

/-! ### Invalidation -/

/-- TLBGINV marks invalid exactly the guest entries in range with the ASID of `Guest.EntryHi`, not global, of the guest
`GuestCtl1.RID` where GuestID is supported (R131, R133). -/
def Obligations.TlbginvMarksByAsid : Prop :=
  ∀ s : State, GuestTlbAccess s → 2 ≤ s.guest.ie → RangeIndexOk .guest s →
    ∃ t, exec .tlbginv s = .next t ∧ Invalidated .guest
      (fun e => e.asid = hiAsid s.cfg s.guest.entryHi ∧ e.g = false ∧ OwnedBy s.rid s e) s t

/-- TLBGINVF marks invalid exactly the guest entries in range, of the guest `GuestCtl1.RID` where GuestID is supported;
ASID and G play no part (R131, R134). -/
def Obligations.TlbginvfMarksTheRange : Prop :=
  ∀ s : State, GuestTlbAccess s → 2 ≤ s.guest.ie → RangeIndexOk .guest s →
    ∃ t, exec .tlbginvf s = .next t ∧ Invalidated .guest (fun e => OwnedBy s.rid s e) s t

/-- TLBINV marks invalid exactly the executing context's entries in range with the ASID of its EntryHi, not global, of
`GuestCtl1.ID` in guest mode and `RID` in root mode where GuestID is supported (R131, R161, R167). -/
def Obligations.TlbinvMarksByAsid : Prop :=
  ∀ s : State, BaseTlbAccess s → 2 ≤ (s.cp0 s.cur).ie → RangeIndexOk s.cur s →
    ∃ t, exec .tlbinv s = .next t ∧ Invalidated s.cur
      (fun e => e.asid = hiAsid s.cfg (s.cp0 s.cur).entryHi ∧ e.g = false ∧
        OwnedBy (if s.isGuestMode then s.id else s.rid) s e) s t

/-- TLBINVF marks invalid exactly the executing context's entries in range and, where GuestID is supported, of the
executing mode's GuestID (R131, R162, R167). -/
def Obligations.TlbinvfMarksTheRange : Prop :=
  ∀ s : State, BaseTlbAccess s → 2 ≤ (s.cp0 s.cur).ie → RangeIndexOk s.cur s →
    ∃ t, exec .tlbinvf s = .next t ∧ Invalidated s.cur
      (fun e => OwnedBy (if s.isGuestMode then s.id else s.rid) s e) s t

/-! ### Probes -/

/-- TLBGP writes `Guest.Index` as R135 says, and nothing else, where every FTLB entry sits in its set: one that does not
may be missed (assumption 14). -/
def Obligations.TlbgpReportsTheMatch : Prop :=
  ∀ s : State, GuestTlbAccess s → FtlbInPlace .guest s → ProbeOutcome .guest s.rid s (exec .tlbgp s)

/-- TLBP writes the executing context's Index as R163 says, comparing `GuestCtl1.ID` in guest mode and `RID` in root
mode, and nothing else. -/
def Obligations.TlbpReportsTheMatch : Prop :=
  ∀ s : State, BaseTlbAccess s → ProbeOutcome s.cur (if s.isGuestMode then s.id else s.rid) s (exec .tlbp s)

/-- Whatever the TLB holds, a probe that leaves bit 31 of Index 0 has found an entry that matches, and so is not marked
invalid and belongs to the right GuestID (R69, R132, R218). -/
def Obligations.ProbesReportOnlyMatchingEntries : Prop :=
  (∀ s t : State, s.tlbEntries .guest ≤ 2 ^ 31 → exec .tlbgp s = .next t → t.guest.index.getLsbD 31 = false →
    t.guest.index.toNat < s.tlbEntries .guest ∧ Matches .guest s.rid s t.guest.index.toNat) ∧
  ∀ s t : State, s.tlbEntries s.cur ≤ 2 ^ 31 → exec .tlbp s = .next t →
    (t.cp0 s.cur).index.getLsbD 31 = false →
    (t.cp0 s.cur).index.toNat < s.tlbEntries s.cur ∧ Matches s.cur s.curGid s (t.cp0 s.cur).index.toNat

/-! ### Reads -/

/-- TLBGR of a valid entry loads the guest registers from it and `GuestCtl1.RID` from its GuestID (R136). -/
def Obligations.TlbgrLoadsAValidEntry : Prop :=
  ∀ (s : State) (e : TlbEntry), GuestTlbAccess s → s.guest.index.toNat < s.tlbEntries .guest →
    e = s.entry .guest s.guest.index.toNat → s.guest.ie < 2 ∨ e.hardwareInvalid = false →
    ∃ t, exec .tlbgr s = .next t ∧ RegsHoldEntry .guest e s t ∧ RidBecomes e.guestId s t ∧ FrameRead .guest s t

/-- TLBGR of an entry marked invalid zeroes the guest registers, sets EHINV, and sets `GuestCtl1.RID` to 0 (R136). -/
def Obligations.TlbgrOfAnInvalidEntryReadsZeros : Prop :=
  ∀ s : State, GuestTlbAccess s → s.guest.index.toNat < s.tlbEntries .guest → 2 ≤ s.guest.ie →
    (s.entry .guest s.guest.index.toNat).hardwareInvalid = true →
    ∃ t, exec .tlbgr s = .next t ∧ RegsHoldInvalid .guest s t ∧ RidBecomes 0#8 s t ∧ FrameRead .guest s t

/-- TLBR in root mode: a valid entry is loaded with its GuestID into RID, an invalid one reads as zeros with EHINV and
RID 0 (R164). -/
def Obligations.TlbrInRootModeLoadsTheEntry : Prop :=
  ∀ (s : State) (e : TlbEntry), BaseTlbAccess s → s.isRootMode = true → s.root.index.toNat < s.tlbEntries .root →
    e = s.entry .root s.root.index.toNat →
    ∃ t, exec .tlbr s = .next t ∧ FrameRead .root s t ∧
      (s.root.ie < 2 ∨ e.hardwareInvalid = false → RegsHoldEntry .root e s t ∧ RidBecomes e.guestId s t) ∧
      (2 ≤ s.root.ie → e.hardwareInvalid = true → RegsHoldInvalid .root s t ∧ RidBecomes 0#8 s t)

/-- TLBR in guest mode: the guest's own valid entry is loaded; an entry marked invalid, or with GuestID supported one of
another guest, reads as an invalid entry; `GuestCtl1` is not written (R164, R218). With `Config4.IE` below 2, where EHINV
does not exist (R39, D14), another guest's entry leaves EntryHi 0: the model's reading, assumption 21. -/
def Obligations.TlbrInGuestModeHidesOtherGuests : Prop :=
  ∀ (s : State) (e : TlbEntry), BaseTlbAccess s → s.isGuestMode = true → s.guest.index.toNat < s.tlbEntries .guest →
    e = s.entry .guest s.guest.index.toNat →
    ∃ t, exec .tlbr s = .next t ∧ FrameCp0 .guest s t ∧
      ((s.guest.ie < 2 ∨ e.hardwareInvalid = false) ∧ OwnedBy s.id s e → RegsHoldEntry .guest e s t) ∧
      (¬((s.guest.ie < 2 ∨ e.hardwareInvalid = false) ∧ OwnedBy s.id s e) → RegsHoldInvalid .guest s t)

/-! ### Writes -/

/-- TLBGWI writes the entry at `Guest.Index` from the guest registers, G the AND of the two G bits, GuestID
`GuestCtl1.RID`, and changes nothing else, under the premise of R140 or with `EHINV = 1` (R137, R139, R140). The premise
is the model's reading of 'overlaps' (assumption 12) and of page sizes (assumption 14). -/
def Obligations.TlbgwiWritesTheIndexedEntry : Prop :=
  ∀ s : State, GuestTlbAccess s → s.guest.index.toNat < s.tlbEntries .guest →
    WriteAllowed .guest s.guest.index.toNat (loG s.guest.entryLo1 && loG s.guest.entryLo0) s.rid s →
    ∃ t, exec .tlbgwi s = .next t ∧
      WroteEntry .guest s.guest.index.toNat (loG s.guest.entryLo1 && loG s.guest.entryLo0) s.rid s t

/-- TLBGWR addresses one of the entries the page size admits, drawn freely (assumption 11); where the premise of R140 holds
for that entry, or with `EHINV = 1`, it completes and writes exactly it, as TLBGWI would write it there (R138 to R140). The
premise and the page sizes are read by assumptions 12 and 14. -/
def Obligations.TlbgwrWritesOneAdmittedEntry : Prop :=
  ∀ s : State, GuestTlbAccess s → 0 < s.vtlbEntries .guest →
    Admitted .guest s (s.randomIndex .guest) ∧
    (WriteAllowed .guest (s.randomIndex .guest) (loG s.guest.entryLo1 && loG s.guest.entryLo0) s.rid s →
      ∃ t, exec .tlbgwr s = .next t ∧
        WroteEntryAtRandom .guest (s.randomIndex .guest) (loG s.guest.entryLo1 && loG s.guest.entryLo0) s.rid s t)

/-- TLBWI writes the entry at the executing context's Index from its registers: G is 1 for a root-mode write with RID not
0 while RAD is 0, else the AND; GuestID is `GuestCtl1.ID` in guest mode and `RID` in root mode (R139, R165, R167). So under
the premise of R140, as assumptions 12 ('overlaps') and 14 (page sizes) read it, or with `EHINV = 1`. -/
def Obligations.TlbwiWritesTheIndexedEntry : Prop :=
  ∀ s : State, BaseTlbAccess s → (s.cp0 s.cur).index.toNat < s.tlbEntries s.cur →
    WriteAllowed s.cur (s.cp0 s.cur).index.toNat (baseG s) s.curGid s →
    ∃ t, exec .tlbwi s = .next t ∧
      WroteEntry s.cur (s.cp0 s.cur).index.toNat (baseG s) (if s.isGuestMode then s.id else s.rid) s t

/-- TLBWR addresses one of the executing context's entries that the page size admits, drawn freely (assumption 11); where
the premise of R140 holds for that entry, or with `EHINV = 1`, it completes and writes exactly it, as TLBWI would write it
there (R139, R166, R167). The premise and the page sizes are read by assumptions 12 and 14. -/
def Obligations.TlbwrWritesOneAdmittedEntry : Prop :=
  ∀ s : State, BaseTlbAccess s → 0 < s.vtlbEntries s.cur →
    Admitted s.cur s (s.randomIndex s.cur) ∧
    (WriteAllowed s.cur (s.randomIndex s.cur) (baseG s) (if s.isGuestMode then s.id else s.rid) s →
      ∃ t, exec .tlbwr s = .next t ∧
        WroteEntryAtRandom s.cur (s.randomIndex s.cur) (baseG s) (if s.isGuestMode then s.id else s.rid) s t)

/-- Whatever it conflicts with, a TLB write with its guards passed has one of the three outcomes R140 admits: the write, the
write with some other entries marked invalid, or a Machine Check with nothing written, the last two only where the premise
fails for the entry it addresses. So for the indexed writes at Index, and for the random writes at one of the entries R138
and R166 admit. R140 also lets a model refuse, as U19 does for the FTLB; that this one admits all three is assumption 13,
what overlaps assumption 12, and page sizes as `Mask` values assumption 14. -/
def Obligations.ConflictingWriteHasOneOfThreeOutcomes : Prop :=
  (∀ s : State, GuestTlbAccess s → s.guest.index.toNat < s.tlbEntries .guest →
    ConflictOutcomes .guest s.guest.index.toNat (loG s.guest.entryLo1 && loG s.guest.entryLo0) s.rid
      (WroteEntry .guest s.guest.index.toNat (loG s.guest.entryLo1 && loG s.guest.entryLo0) s.rid s) s (exec .tlbgwi s)) ∧
  (∀ s : State, GuestTlbAccess s → 0 < s.vtlbEntries .guest →
    ∃ i, Admitted .guest s i ∧
      ConflictOutcomes .guest i (loG s.guest.entryLo1 && loG s.guest.entryLo0) s.rid
        (WroteEntryAtRandom .guest i (loG s.guest.entryLo1 && loG s.guest.entryLo0) s.rid s) s (exec .tlbgwr s)) ∧
  (∀ s : State, BaseTlbAccess s → (s.cp0 s.cur).index.toNat < s.tlbEntries s.cur →
    ConflictOutcomes s.cur (s.cp0 s.cur).index.toNat (baseG s) (if s.isGuestMode then s.id else s.rid)
      (WroteEntry s.cur (s.cp0 s.cur).index.toNat (baseG s) (if s.isGuestMode then s.id else s.rid) s) s
      (exec .tlbwi s)) ∧
  ∀ s : State, BaseTlbAccess s → 0 < s.vtlbEntries s.cur →
    ∃ i, Admitted s.cur s i ∧
      ConflictOutcomes s.cur i (baseG s) (if s.isGuestMode then s.id else s.rid)
        (WroteEntryAtRandom s.cur i (baseG s) (if s.isGuestMode then s.id else s.rid) s) s (exec .tlbwr s)

/-! ### Sequences and relations -/

/-- TLBGWI then TLBGR gives back what was written: R, ASID, C, D, V, the AND of the G bits in both registers, VPN2 and PFN
with the mask bits cleared where the implementation clears them on either way, Mask, EHINV 0 (R136, R137, R139). So for a
write within the premise of R140, as assumptions 12 ('overlaps') and 14 (page sizes) read it. -/
def Obligations.WrittenGuestEntryReadsBack : Prop :=
  ∀ s t u : State, s.wf = true → s.guest.ehinv = false →
    WriteAllowed .guest s.guest.index.toNat (s.gAnd .guest) s.rid s →
    exec .tlbgwi s = .next t → exec .tlbgr t = .next u →
    u.guest.entryHi = hiR s.guest.entryHi ++ clearUnder (s.cfg.tlbMaskOnWrite || s.cfg.tlbMaskOnRead)
        (hiVpn2 s.cfg s.guest.entryHi) (pmMask s.cfg s.guest.pageMask) ++ 0#5 ++ hiAsid s.cfg s.guest.entryHi ∧
      loPfn u.guest.entryLo0 = clearUnder (s.cfg.tlbMaskOnWrite || s.cfg.tlbMaskOnRead) (loPfn s.guest.entryLo0)
        (pmMask s.cfg s.guest.pageMask) ∧
      loPfn u.guest.entryLo1 = clearUnder (s.cfg.tlbMaskOnWrite || s.cfg.tlbMaskOnRead) (loPfn s.guest.entryLo1)
        (pmMask s.cfg s.guest.pageMask) ∧
      u.guest.entryLo0.extractLsb' 1 5 = s.guest.entryLo0.extractLsb' 1 5 ∧
      u.guest.entryLo1.extractLsb' 1 5 = s.guest.entryLo1.extractLsb' 1 5 ∧
      loG u.guest.entryLo0 = (loG s.guest.entryLo0 && loG s.guest.entryLo1) ∧
      loG u.guest.entryLo1 = (loG s.guest.entryLo0 && loG s.guest.entryLo1) ∧
      pmMask s.cfg u.guest.pageMask = pmMask s.cfg s.guest.pageMask ∧ u.rid = s.rid

/-- After TLBGINVF over a JTLB without GuestID every guest entry is marked invalid, and a following TLBGP finds nothing:
bit 31 of `Guest.Index` is 1 (R69, R134, R135). -/
def Obligations.FlushedGuestTlbHoldsNoMatch : Prop :=
  ∀ s t u : State, s.wf = true → s.guest.mt = 1 → s.g1 = false → exec .tlbginvf s = .next t →
    exec .tlbgp t = .next u → t.guestTlb.all (fun e => e.hardwareInvalid) = true ∧ u.guest.index.getLsbD 31 = true

/-- R168, which the spec derives from the rules of both families: each TLBG instruction in root mode does to the guest
context what its base counterpart does in guest mode, with `RID` in the place of `ID` where GuestID is supported; with
GuestID, TLBGR writes `GuestCtl1.RID`, while TLBR in guest mode writes no `GuestCtl1` and reads another guest's entry as an
invalid one (with `Config4.IE` below 2 leaving EntryHi 0: the model's reading, assumption 21). The probes are compared where
every FTLB entry sits in its set, since R135 lets TLBGP miss one that does not. -/
def Obligations.GuestTlbFamilyMirrorsTheBaseFamily : Prop :=
  ∀ s u : State, RootAccess s → u.isGuestMode = true → u.modeHasNoMeaning = false → u.cp0Enabled = true →
    s.guest = u.guest → s.guestTlb = u.guestTlb → s.cfg = u.cfg → s.draws = u.draws → s.g1 = u.g1 →
    (s.g1 = true → s.rid = u.id) →
    AgreeOnGuest (exec .tlbginv s) (exec .tlbinv u) ∧ AgreeOnGuest (exec .tlbginvf s) (exec .tlbinvf u) ∧
      (FtlbInPlace .guest s → AgreeOnGuest (exec .tlbgp s) (exec .tlbp u)) ∧ AgreeOnGuest (exec .tlbgwi s) (exec .tlbwi u) ∧
      AgreeOnGuest (exec .tlbgwr s) (exec .tlbwr u) ∧
      (s.g1 = false ∨ (s.entry .guest (s.idx .guest)).guestId = u.id →
        AgreeOnGuest (exec .tlbgr s) (exec .tlbr u)) ∧
      (∀ t, exec .tlbgr s = .next t →
        (2 ≤ s.guest.ie ∧ (s.entry .guest (s.idx .guest)).hardwareInvalid = true → RidBecomes 0#8 s t) ∧
        (s.guest.ie < 2 ∨ (s.entry .guest (s.idx .guest)).hardwareInvalid = false →
          RidBecomes (s.entry .guest (s.idx .guest)).guestId s t)) ∧
      ∀ t, exec .tlbr u = .next t → t.guestCtl1 = u.guestCtl1 ∧
        (u.g1 = true → (u.entry .guest (u.idx .guest)).guestId ≠ u.id → RegsHoldInvalid .guest u t)

/-- R37: TLBGINV and TLBGINVF pay no attention to `Guest.Wired`: with another Wired they do the same. -/
def Obligations.InvalidationIgnoresWired : Prop :=
  ∀ (s t : State) (v : Half),
    (exec .tlbginv s = .next t →
      exec .tlbginv { s with guest := { s.guest with wired := v } } =
        .next { t with guest := { t.guest with wired := v } }) ∧
    (exec .tlbginvf s = .next t →
      exec .tlbginvf { s with guest := { s.guest with wired := v } } =
        .next { t with guest := { t.guest with wired := v } })
end

