-- ==== Sys2Proof/Laws/State.lean ====
section
/-! SUPPORT. One lemma for each field of the state after each update, so that no proof unfolds a record update. -/

namespace Sys2Proof.Machine

variable (s : State) (c d : Ctx) (k : Cp0) (t : List TlbEntry) (v : BitVec 8) (h : Half) (x : Word) (r : Nat)

/-! ### The two contexts -/
@[simp] theorem cp0_root : s.cp0 .root = s.root := rfl
@[simp] theorem cp0_guest : s.cp0 .guest = s.guest := rfl
@[simp] theorem tlb_root : s.tlb .root = s.rootTlb := rfl
@[simp] theorem tlb_guest : s.tlb .guest = s.guestTlb := rfl

@[simp] theorem idx_root : s.idx .root = s.root.index.toNat := rfl
@[simp] theorem idx_guest : s.idx .guest = s.guest.index.toNat := rfl

/-! ### advance -/
@[simp] theorem advance_gpr : s.advance.gpr = s.gpr := rfl
@[simp] theorem advance_pc : s.advance.pc = s.pc + 4#64 := rfl
@[simp] theorem advance_root : s.advance.root = s.root := rfl
@[simp] theorem advance_guest : s.advance.guest = s.guest := rfl
@[simp] theorem advance_guestCtl0 : s.advance.guestCtl0 = s.guestCtl0 := rfl
@[simp] theorem advance_guestCtl1 : s.advance.guestCtl1 = s.guestCtl1 := rfl
@[simp] theorem advance_debugReg : s.advance.debugReg = s.debugReg := rfl
@[simp] theorem advance_rootTlb : s.advance.rootTlb = s.rootTlb := rfl
@[simp] theorem advance_guestTlb : s.advance.guestTlb = s.guestTlb := rfl
@[simp] theorem advance_mem : s.advance.mem = s.mem := rfl
@[simp] theorem advance_cfg : s.advance.cfg = s.cfg := rfl
@[simp] theorem advance_draws : s.advance.draws = s.draws + 1 := rfl
@[simp] theorem advance_cp0 : s.advance.cp0 c = s.cp0 c := by cases c <;> rfl
@[simp] theorem advance_tlb : s.advance.tlb c = s.tlb c := by cases c <;> rfl
@[simp] theorem advance_getGpr : s.advance.getGpr r = s.getGpr r := rfl

/-! ### setCp0 -/
@[simp] theorem setCp0_gpr : (s.setCp0 c k).gpr = s.gpr := by cases c <;> rfl
@[simp] theorem setCp0_pc : (s.setCp0 c k).pc = s.pc := by cases c <;> rfl
@[simp] theorem setCp0_root_guest : (s.setCp0 .guest k).root = s.root := rfl
@[simp] theorem setCp0_root_root : (s.setCp0 .root k).root = k := rfl
@[simp] theorem setCp0_guest_root : (s.setCp0 .root k).guest = s.guest := rfl
@[simp] theorem setCp0_guest_guest : (s.setCp0 .guest k).guest = k := rfl
@[simp] theorem setCp0_guestCtl0 : (s.setCp0 c k).guestCtl0 = s.guestCtl0 := by cases c <;> rfl
@[simp] theorem setCp0_guestCtl1 : (s.setCp0 c k).guestCtl1 = s.guestCtl1 := by cases c <;> rfl
@[simp] theorem setCp0_debugReg : (s.setCp0 c k).debugReg = s.debugReg := by cases c <;> rfl
@[simp] theorem setCp0_rootTlb : (s.setCp0 c k).rootTlb = s.rootTlb := by cases c <;> rfl
@[simp] theorem setCp0_guestTlb : (s.setCp0 c k).guestTlb = s.guestTlb := by cases c <;> rfl
@[simp] theorem setCp0_mem : (s.setCp0 c k).mem = s.mem := by cases c <;> rfl
@[simp] theorem setCp0_cfg : (s.setCp0 c k).cfg = s.cfg := by cases c <;> rfl
@[simp] theorem setCp0_draws : (s.setCp0 c k).draws = s.draws := by cases c <;> rfl
@[simp] theorem setCp0_tlb : (s.setCp0 c k).tlb d = s.tlb d := by cases c <;> cases d <;> rfl
@[simp] theorem setCp0_cp0_same : (s.setCp0 c k).cp0 c = k := by cases c <;> rfl
theorem setCp0_cp0_other (hd : d ≠ c) : (s.setCp0 c k).cp0 d = s.cp0 d := by
  cases c <;> cases d <;> first | rfl | exact absurd rfl hd

/-! ### setTlb -/
@[simp] theorem setTlb_gpr : (s.setTlb c t).gpr = s.gpr := by cases c <;> rfl
@[simp] theorem setTlb_pc : (s.setTlb c t).pc = s.pc := by cases c <;> rfl
@[simp] theorem setTlb_root : (s.setTlb c t).root = s.root := by cases c <;> rfl
@[simp] theorem setTlb_guest : (s.setTlb c t).guest = s.guest := by cases c <;> rfl
@[simp] theorem setTlb_guestCtl0 : (s.setTlb c t).guestCtl0 = s.guestCtl0 := by cases c <;> rfl
@[simp] theorem setTlb_guestCtl1 : (s.setTlb c t).guestCtl1 = s.guestCtl1 := by cases c <;> rfl
@[simp] theorem setTlb_debugReg : (s.setTlb c t).debugReg = s.debugReg := by cases c <;> rfl
@[simp] theorem setTlb_rootTlb_guest : (s.setTlb .guest t).rootTlb = s.rootTlb := rfl
@[simp] theorem setTlb_rootTlb_root : (s.setTlb .root t).rootTlb = t := rfl
@[simp] theorem setTlb_guestTlb_root : (s.setTlb .root t).guestTlb = s.guestTlb := rfl
@[simp] theorem setTlb_guestTlb_guest : (s.setTlb .guest t).guestTlb = t := rfl
@[simp] theorem setTlb_mem : (s.setTlb c t).mem = s.mem := by cases c <;> rfl
@[simp] theorem setTlb_cfg : (s.setTlb c t).cfg = s.cfg := by cases c <;> rfl
@[simp] theorem setTlb_draws : (s.setTlb c t).draws = s.draws := by cases c <;> rfl
@[simp] theorem setTlb_cp0 : (s.setTlb c t).cp0 d = s.cp0 d := by cases c <;> cases d <;> rfl
@[simp] theorem setTlb_tlb_same : (s.setTlb c t).tlb c = t := by cases c <;> rfl
theorem setTlb_tlb_other (hd : d ≠ c) : (s.setTlb c t).tlb d = s.tlb d := by
  cases c <;> cases d <;> first | rfl | exact absurd rfl hd

/-! ### setRid -/
@[simp] theorem setRid_gpr : (s.setRid v).gpr = s.gpr := rfl
@[simp] theorem setRid_pc : (s.setRid v).pc = s.pc := rfl
@[simp] theorem setRid_root : (s.setRid v).root = s.root := rfl
@[simp] theorem setRid_guest : (s.setRid v).guest = s.guest := rfl
@[simp] theorem setRid_guestCtl0 : (s.setRid v).guestCtl0 = s.guestCtl0 := rfl
@[simp] theorem setRid_guestCtl1 : (s.setRid v).guestCtl1 = putField s.guestCtl1 16 v := rfl
@[simp] theorem setRid_debugReg : (s.setRid v).debugReg = s.debugReg := rfl
@[simp] theorem setRid_rootTlb : (s.setRid v).rootTlb = s.rootTlb := rfl
@[simp] theorem setRid_guestTlb : (s.setRid v).guestTlb = s.guestTlb := rfl
@[simp] theorem setRid_mem : (s.setRid v).mem = s.mem := rfl
@[simp] theorem setRid_cfg : (s.setRid v).cfg = s.cfg := rfl
@[simp] theorem setRid_draws : (s.setRid v).draws = s.draws := rfl
@[simp] theorem setRid_cp0 : (s.setRid v).cp0 c = s.cp0 c := by cases c <;> rfl
@[simp] theorem setRid_tlb : (s.setRid v).tlb c = s.tlb c := by cases c <;> rfl

/-! ### updateRid -/
@[simp] theorem updateRid_gpr : (s.updateRid v).gpr = s.gpr := by unfold State.updateRid; split <;> rfl
@[simp] theorem updateRid_pc : (s.updateRid v).pc = s.pc := by unfold State.updateRid; split <;> rfl
@[simp] theorem updateRid_root : (s.updateRid v).root = s.root := by unfold State.updateRid; split <;> rfl
@[simp] theorem updateRid_guest : (s.updateRid v).guest = s.guest := by unfold State.updateRid; split <;> rfl
@[simp] theorem updateRid_guestCtl0 : (s.updateRid v).guestCtl0 = s.guestCtl0 := by
  unfold State.updateRid; split <;> rfl
@[simp] theorem updateRid_debugReg : (s.updateRid v).debugReg = s.debugReg := by unfold State.updateRid; split <;> rfl
@[simp] theorem updateRid_rootTlb : (s.updateRid v).rootTlb = s.rootTlb := by unfold State.updateRid; split <;> rfl
@[simp] theorem updateRid_guestTlb : (s.updateRid v).guestTlb = s.guestTlb := by unfold State.updateRid; split <;> rfl
@[simp] theorem updateRid_mem : (s.updateRid v).mem = s.mem := by unfold State.updateRid; split <;> rfl
@[simp] theorem updateRid_cfg : (s.updateRid v).cfg = s.cfg := by unfold State.updateRid; split <;> rfl
@[simp] theorem updateRid_draws : (s.updateRid v).draws = s.draws := by unfold State.updateRid; split <;> rfl
@[simp] theorem updateRid_cp0 : (s.updateRid v).cp0 c = s.cp0 c := by unfold State.updateRid; split <;> simp
@[simp] theorem updateRid_tlb : (s.updateRid v).tlb c = s.tlb c := by unfold State.updateRid; split <;> simp

/-! ### setGpr -/
@[simp] theorem setGpr_pc : (s.setGpr r x).pc = s.pc := by unfold State.setGpr; split <;> rfl
@[simp] theorem setGpr_root : (s.setGpr r x).root = s.root := by unfold State.setGpr; split <;> rfl
@[simp] theorem setGpr_guest : (s.setGpr r x).guest = s.guest := by unfold State.setGpr; split <;> rfl
@[simp] theorem setGpr_guestCtl0 : (s.setGpr r x).guestCtl0 = s.guestCtl0 := by unfold State.setGpr; split <;> rfl
@[simp] theorem setGpr_guestCtl1 : (s.setGpr r x).guestCtl1 = s.guestCtl1 := by unfold State.setGpr; split <;> rfl
@[simp] theorem setGpr_debugReg : (s.setGpr r x).debugReg = s.debugReg := by unfold State.setGpr; split <;> rfl
@[simp] theorem setGpr_rootTlb : (s.setGpr r x).rootTlb = s.rootTlb := by unfold State.setGpr; split <;> rfl
@[simp] theorem setGpr_guestTlb : (s.setGpr r x).guestTlb = s.guestTlb := by unfold State.setGpr; split <;> rfl
@[simp] theorem setGpr_mem : (s.setGpr r x).mem = s.mem := by unfold State.setGpr; split <;> rfl
@[simp] theorem setGpr_cfg : (s.setGpr r x).cfg = s.cfg := by unfold State.setGpr; split <;> rfl
@[simp] theorem setGpr_draws : (s.setGpr r x).draws = s.draws := by unfold State.setGpr; split <;> rfl
@[simp] theorem setGpr_cp0 : (s.setGpr r x).cp0 c = s.cp0 c := by cases c <;> simp [State.cp0]
@[simp] theorem setGpr_tlb : (s.setGpr r x).tlb c = s.tlb c := by cases c <;> simp [State.tlb]

/-- `setGpr` changes only the general registers. -/
theorem setGpr_eq : s.setGpr r x = { s with gpr := (s.setGpr r x).gpr } := by
  unfold State.setGpr; split <;> rfl

/-! ### setIndex -/
theorem setIndex_eq : s.setIndex c h = s.setCp0 c { s.cp0 c with index := h } := rfl
@[simp] theorem setIndex_index : ((s.setIndex c h).cp0 c).index = h := by cases c <;> rfl

end Sys2Proof.Machine
end

