-- ==== Sys2Proof/Laws/Guards.lean ====
section
/-! SUPPORT. The modes, how an instruction ends, and what the guards of each instruction family can answer. -/

namespace Sys2Proof.Machine

/-! ### Modes (R202, R203) -/

theorem isRootMode_eq (s : State) : s.isRootMode = !s.isGuestMode := by
  unfold State.isRootMode State.isGuestMode
  cases s.gm <;> cases s.dm <;> cases s.root.erl <;> cases s.root.exl <;> rfl

theorem isGuestMode_of_root {s : State} (h : s.isRootMode = true) : s.isGuestMode = false := by
  simpa [isRootMode_eq] using h

theorem cur_of_root {s : State} (h : s.isRootMode = true) : s.cur = .root := by
  simp [State.cur, isGuestMode_of_root h]

theorem cur_of_guest {s : State} (h : s.isGuestMode = true) : s.cur = .guest := by
  simp [State.cur, h]

/-- The mode depends on four bits of root state only. -/
theorem isGuestMode_congr {s t : State} (h0 : t.guestCtl0 = s.guestCtl0) (hd : t.debugReg = s.debugReg)
    (hs : t.root.status = s.root.status) : t.isGuestMode = s.isGuestMode := by
  simp [State.isGuestMode, State.gm, State.dm, Cp0.erl, Cp0.exl, h0, hd, hs]

/-! ### How an instruction ends -/

theorem finish_next {r : Run State} {t : State} : finish r = .next t ↔ ∃ u, r = .ok u ∧ t = u.advance := by
  match r with
  | .ok u => simp [finish, eq_comm]
  | .error (.fault f) => simp [finish]
  | .error (.refuse q) => simp [finish]

theorem finish_fault {r : Run State} {f : Fault} : finish r = .fault f ↔ r = .error (.fault f) := by
  match r with
  | .ok u => simp [finish]
  | .error (.fault g) => simp [finish]
  | .error (.refuse q) => simp [finish]

theorem finish_refused {r : Run State} {q : Refusal} : finish r = .refused q ↔ r = .error (.refuse q) := by
  match r with
  | .ok u => simp [finish]
  | .error (.fault g) => simp [finish]
  | .error (.refuse p) => simp [finish]

/-- An instruction that runs its effect after its guards, seen from a next state. -/
theorem guarded_next {g : Run Unit} {r : Run State} {t : State}
    (h : finish (match g with | .error e => .error e | .ok _ => r) = .next t) :
    g = .ok () ∧ ∃ u, r = .ok u ∧ t = u.advance := by
  obtain ⟨u, hu, rfl⟩ := finish_next.1 h
  match g, hu with
  | .ok (), hu => exact ⟨rfl, u, hu, rfl⟩

/-- An instruction that runs its effect after its guards, seen from a fault. -/
theorem guarded_fault {g : Run Unit} {r : Run State} {f : Fault}
    (h : finish (match g with | .error e => .error e | .ok _ => r) = .fault f) :
    g = .error (.fault f) ∨ (g = .ok () ∧ r = .error (.fault f)) := by
  have hu := finish_fault.1 h
  match g, hu with
  | .ok (), hu => exact .inr ⟨rfl, hu⟩
  | .error e, hu => exact .inl (congrArg _ (Except.error.inj hu))

/-! ### Guards (R100, R130, R160) -/

theorem guestMoveGuards_ok {needs64 : Bool} {s : State} :
    guestMoveGuards needs64 s = .ok () ↔
      s.modeHasNoMeaning = false ∧ s.cp0Enabled = true ∧ (s.cp0 s.cur).vz = true ∧
        (needs64 = true → s.ops64Enabled = true) := by
  unfold guestMoveGuards refuse raise
  cases s.modeHasNoMeaning <;> cases s.cp0Enabled <;> cases (s.cp0 s.cur).vz <;> cases needs64 <;>
    cases s.ops64Enabled <;> simp

theorem tlbgGuards_ok {inv : Bool} {s : State} :
    tlbgGuards inv s = .ok () ↔
      s.modeHasNoMeaning = false ∧ s.cp0Enabled = true ∧ (s.cp0 s.cur).vz = true ∧ s.guest.hasTlb = true ∧
        (inv = true → s.guest.hasInvalid = true) := by
  unfold tlbgGuards refuse raise
  cases s.modeHasNoMeaning <;> cases s.cp0Enabled <;> cases (s.cp0 s.cur).vz <;> cases s.guest.hasTlb <;>
    cases inv <;> cases s.guest.hasInvalid <;> simp

theorem tlbGuards_ok {inv : Bool} {s : State} :
    tlbGuards inv s = .ok () ↔
      s.modeHasNoMeaning = false ∧ s.cp0Enabled = true ∧ (s.cp0 s.cur).hasTlb = true ∧
        (inv = true → (s.cp0 s.cur).hasInvalid = true) := by
  unfold tlbGuards refuse raise
  cases s.modeHasNoMeaning <;> cases s.cp0Enabled <;> cases (s.cp0 s.cur).hasTlb <;> cases inv <;>
    cases (s.cp0 s.cur).hasInvalid <;> simp

/-- What the guards of the guest moves raise, where the mode has a meaning. -/
theorem guestMoveGuards_error {needs64 : Bool} {s : State} {e : Stop} (h : guestMoveGuards needs64 s = .error e) :
    e = .refuse .modeHasNoMeaning ∨
      ∃ k, (k = .coprocessorUnusable 0 ∨ k = .reservedInstruction) ∧
        e = .fault (.trap { kind := k, takenIn := s.cur, pc := s.pc }) := by
  unfold guestMoveGuards refuse raise at h
  split at h
  · exact .inl (Except.error.inj h).symm
  · right
    repeat' split at h
    all_goals first
      | exact ⟨_, .inl rfl, (Except.error.inj h).symm⟩
      | exact ⟨_, .inr rfl, (Except.error.inj h).symm⟩
      | cases h

/-- What the guards of the guest TLB instructions raise. -/
theorem tlbgGuards_error {inv : Bool} {s : State} {e : Stop} (h : tlbgGuards inv s = .error e) :
    e = .refuse .modeHasNoMeaning ∨ e = .refuse .noTlb ∨
      ∃ k, (k = .coprocessorUnusable 0 ∨ k = .reservedInstruction) ∧
        e = .fault (.trap { kind := k, takenIn := s.cur, pc := s.pc }) := by
  unfold tlbgGuards refuse raise at h
  repeat' split at h
  all_goals first
    | exact .inl (Except.error.inj h).symm
    | exact .inr (.inl (Except.error.inj h).symm)
    | exact .inr (.inr ⟨_, .inl rfl, (Except.error.inj h).symm⟩)
    | exact .inr (.inr ⟨_, .inr rfl, (Except.error.inj h).symm⟩)
    | cases h

/-- What the guards of the base TLB instructions raise. -/
theorem tlbGuards_error {inv : Bool} {s : State} {e : Stop} (h : tlbGuards inv s = .error e) :
    e = .refuse .modeHasNoMeaning ∨ e = .refuse .noTlb ∨
      ∃ k, (k = .coprocessorUnusable 0 ∨ k = .reservedInstruction) ∧
        e = .fault (.trap { kind := k, takenIn := s.cur, pc := s.pc }) := by
  unfold tlbGuards refuse raise at h
  repeat' split at h
  all_goals first
    | exact .inl (Except.error.inj h).symm
    | exact .inr (.inl (Except.error.inj h).symm)
    | exact .inr (.inr ⟨_, .inl rfl, (Except.error.inj h).symm⟩)
    | exact .inr (.inr ⟨_, .inr rfl, (Except.error.inj h).symm⟩)
    | cases h

/-! ### Access conditions imply that the guards pass -/

theorem RootAccess.guards {s : State} (h : RootAccess s) {needs64 : Bool} (h64 : needs64 = true → s.ops64Enabled = true) :
    guestMoveGuards needs64 s = .ok () := by
  obtain ⟨hr, hv, hm, hc⟩ := h
  exact guestMoveGuards_ok.2 ⟨hm, hc, by rw [cur_of_root hr]; exact hv, h64⟩

theorem GuestTlbAccess.guards {s : State} (h : GuestTlbAccess s) {inv : Bool}
    (hi : inv = true → s.guest.hasInvalid = true) : tlbgGuards inv s = .ok () := by
  obtain ⟨⟨hr, hv, hm, hc⟩, ht⟩ := h
  exact tlbgGuards_ok.2 ⟨hm, hc, by rw [cur_of_root hr]; exact hv, ht, hi⟩

theorem BaseTlbAccess.guards {s : State} (h : BaseTlbAccess s) {inv : Bool}
    (hi : inv = true → (s.cp0 s.cur).hasInvalid = true) : tlbGuards inv s = .ok () :=
  tlbGuards_ok.2 ⟨h.1, h.2.1, h.2.2, hi⟩

theorem hasInvalid_iff (k : Cp0) : k.hasInvalid = true ↔ 2 ≤ k.ie := by simp [Cp0.hasInvalid]

end Sys2Proof.Machine
end

