-- ==== Sys2Proof/Laws/Memory.lean ====
section
/-! SUPPORT. The program text: reading what was written, leaving the rest alone, and keeping the canonical form. -/

namespace Sys2Proof.Machine

theorem memGet_memPut_same (m : List Host.Cell) (a : Nat) (b : Byte) : memGet (memPut m a b) a = some b := by
  induction m with
  | nil => simp [memPut, memGet]
  | cons c rest ih =>
    obtain ⟨k, v⟩ := c
    unfold memPut
    split
    · simp [memGet]
    · split
      · simp [memGet]
      · rename_i _ hne
        have : k ≠ a := fun h => hne h.symm
        simp [memGet, this, ih]

theorem memGet_memPut_other (m : List Host.Cell) (a a' : Nat) (b : Byte) (h : a' ≠ a) :
    memGet (memPut m a b) a' = memGet m a' := by
  induction m with
  | nil => simp [memPut, memGet, h.symm]
  | cons c rest ih =>
    obtain ⟨k, v⟩ := c
    unfold memPut
    split
    · simp [memGet, h.symm]
    · split
      · rename_i _ heq
        subst heq
        simp [memGet, h.symm]
      · simp [memGet, ih]

theorem memSortedFrom_cons (lo : Option Nat) (a : Nat) (b : Byte) (rest : List Host.Cell) :
    memSortedFrom lo ((a, b) :: rest) = true ↔
      above lo a = true ∧ a < 2 ^ 64 ∧ memSortedFrom (some a) rest = true := by
  simp only [memSortedFrom, Bool.and_eq_true, decide_eq_true_eq, and_assoc]

theorem memPut_sorted (m : List Host.Cell) (a : Nat) (b : Byte) (ha : a < 2 ^ 64) (lo : Option Nat)
    (hlo : above lo a = true) (hm : memSortedFrom lo m = true) : memSortedFrom lo (memPut m a b) = true := by
  induction m generalizing lo with
  | nil => exact (memSortedFrom_cons ..).2 ⟨hlo, ha, rfl⟩
  | cons c rest ih =>
    obtain ⟨k, v⟩ := c
    obtain ⟨hk, hk64, hr⟩ := (memSortedFrom_cons ..).1 hm
    unfold memPut
    split
    · rename_i hlt
      exact (memSortedFrom_cons ..).2 ⟨hlo, ha, (memSortedFrom_cons ..).2 ⟨decide_eq_true hlt, hk64, hr⟩⟩
    · split
      · rename_i _ heq
        subst heq
        exact (memSortedFrom_cons ..).2 ⟨hlo, ha, hr⟩
      · refine (memSortedFrom_cons ..).2 ⟨hk, hk64, ih (some k) ?_ hr⟩
        exact decide_eq_true (by omega)

/-- Writing a byte keeps the canonical form. -/
theorem memPut_wf (m : List Host.Cell) (a : Nat) (b : Byte) (ha : a < 2 ^ 64) (hm : Memory.wf m = true) :
    Memory.wf (memPut m a b) = true :=
  memPut_sorted m a b ha none rfl hm

/-- Writing bytes keeps the canonical form. -/
theorem memWrite_wf (m : List Host.Cell) (a : Word) (bs : List Byte) (hm : Memory.wf m = true) :
    Memory.wf (memWrite m a bs) = true := by
  induction bs generalizing a with
  | nil => exact hm
  | cons b bs ih => exact memPut_wf _ _ _ a.isLt (ih _)

end Sys2Proof.Machine
end

