-- ==== Sys2Proof/Laws/Registers.lean ====
section
/-! SUPPORT. General registers and coprocessor 0 images: reading what was written and leaving the rest alone. -/

namespace Sys2Proof.Machine

/-! ### General registers -/

@[simp] theorem getGpr_zero (s : State) : s.getGpr 0 = 0#64 := rfl

@[simp] theorem setGpr_zero (s : State) (v : Word) : s.setGpr 0 v = s := rfl

theorem getGpr_setGpr_same (s : State) (r : Nat) (v : Word) (h0 : r ≠ 0) (h : r < 32) :
    (s.setGpr r v).getGpr r = v := by
  simp [State.getGpr, State.setGpr, h0, h]

theorem getGpr_setGpr_other (s : State) (r q : Nat) (v : Word) (h : q ≠ r) :
    (s.setGpr r v).getGpr q = s.getGpr q := by
  unfold State.getGpr State.setGpr
  by_cases hr : r = 0
  · simp [hr]
  · by_cases hq : q = 0
    · simp [hq]
    · simp [hr, hq, Ne.symm h]

theorem setGpr_gpr_zero (s : State) (r : Nat) (v : Word) : (s.setGpr r v).gpr[0] = s.gpr[0] := by
  unfold State.setGpr
  split
  · rfl
  · rename_i h
    exact Vector.getElem_setIfInBounds_ne (by omega) h

/-! ### Unnamed images -/

theorem otherSortedFrom_cons (lo : Option Nat) (k : Nat) (v : Word) (rest : List (Nat × Word)) :
    otherSortedFrom lo ((k, v) :: rest) = true ↔
      above lo k = true ∧ v ≠ 0#64 ∧ otherSortedFrom (some k) rest = true := by
  simp only [otherSortedFrom, Bool.and_eq_true, decide_eq_true_eq, and_assoc]

theorem otherGet_of_sorted (m : List (Nat × Word)) (lo key : Nat) (hm : otherSortedFrom (some lo) m = true)
    (h : key ≤ lo) : otherGet m key = 0#64 := by
  induction m generalizing lo with
  | nil => rfl
  | cons c rest ih =>
    obtain ⟨k, v⟩ := c
    obtain ⟨hk, -, hr⟩ := (otherSortedFrom_cons ..).1 hm
    have hk : lo < k := of_decide_eq_true hk
    have : k ≠ key := by omega
    simp only [otherGet, if_neg this]
    exact ih k hr (by omega)

theorem otherGet_otherPut_same (m : List (Nat × Word)) (lo : Option Nat) (key : Nat) (v : Word)
    (hm : otherSortedFrom lo m = true) : otherGet (otherPut m key v) key = v := by
  induction m generalizing lo with
  | nil => unfold otherPut; split <;> simp_all [otherGet]
  | cons c rest ih =>
    obtain ⟨k, w⟩ := c
    obtain ⟨-, -, hr⟩ := (otherSortedFrom_cons ..).1 hm
    unfold otherPut
    split
    · split
      · rename_i hlt hv
        have : k ≠ key := by omega
        simp only [otherGet, if_neg this]
        rw [otherGet_of_sorted rest k key hr (by omega), hv]
      · simp [otherGet]
    · split
      · rename_i _ heq
        subst heq
        split
        · rename_i hv
          rw [otherGet_of_sorted rest _ _ hr (Nat.le_refl _), hv]
        · simp [otherGet]
      · rename_i _ hne
        have : k ≠ key := fun h => hne h.symm
        simp only [otherGet, if_neg this]
        exact ih (some k) hr

theorem otherGet_otherPut_other (m : List (Nat × Word)) (key key' : Nat) (v : Word) (h : key' ≠ key) :
    otherGet (otherPut m key v) key' = otherGet m key' := by
  induction m with
  | nil => unfold otherPut; split <;> simp [otherGet, h.symm]
  | cons c rest ih =>
    obtain ⟨k, w⟩ := c
    unfold otherPut
    split
    · split <;> simp [otherGet, h.symm]
    · split
      · rename_i _ heq
        subst heq
        split <;> simp [otherGet, h.symm]
      · simp [otherGet, ih]

theorem above_trans (lo : Option Nat) (a b : Nat) (h : above lo a = true) (hab : a < b) : above lo b = true := by
  cases lo with
  | none => rfl
  | some l => exact decide_eq_true (Nat.lt_trans (of_decide_eq_true h) hab)

theorem otherSortedFrom_below (m : List (Nat × Word)) (lo : Option Nat) (k : Nat) (h : above lo k = true)
    (hm : otherSortedFrom (some k) m = true) : otherSortedFrom lo m = true := by
  cases m with
  | nil => rfl
  | cons c rest =>
    obtain ⟨hk, hw, hr⟩ := (otherSortedFrom_cons ..).1 hm
    exact (otherSortedFrom_cons ..).2 ⟨above_trans lo k c.1 h (of_decide_eq_true hk), hw, hr⟩

theorem otherPut_sorted (m : List (Nat × Word)) (lo : Option Nat) (key : Nat) (v : Word)
    (hlo : above lo key = true) (hm : otherSortedFrom lo m = true) : otherSortedFrom lo (otherPut m key v) = true := by
  induction m generalizing lo with
  | nil =>
    unfold otherPut
    split
    · rfl
    · rename_i hv
      exact (otherSortedFrom_cons ..).2 ⟨hlo, hv, rfl⟩
  | cons c rest ih =>
    obtain ⟨k, w⟩ := c
    obtain ⟨hk, hw, hr⟩ := (otherSortedFrom_cons ..).1 hm
    unfold otherPut
    split
    · split
      · exact hm
      · rename_i hlt hv
        exact (otherSortedFrom_cons ..).2
          ⟨hlo, hv, (otherSortedFrom_cons ..).2 ⟨decide_eq_true hlt, hw, hr⟩⟩
    · split
      · rename_i _ heq
        subst heq
        split
        · exact otherSortedFrom_below rest lo _ hlo hr
        · rename_i hv
          exact (otherSortedFrom_cons ..).2 ⟨hlo, hv, hr⟩
      · refine (otherSortedFrom_cons ..).2 ⟨hk, hw, ih (some k) ?_ hr⟩
        exact decide_eq_true (by omega)

/-- Storing an image keeps the canonical form. -/
theorem otherPut_wf (m : List (Nat × Word)) (key : Nat) (v : Word) (hm : Other.wf m = true) :
    Other.wf (otherPut m key v) = true :=
  otherPut_sorted m none key v rfl hm

/-! ### Images by name -/

/-- The register has 64 bits in the state (R28). -/
def RegName.wide : RegName → Bool
  | .entryLo0 => true
  | .entryLo1 => true
  | .entryHi => true
  | .other _ => true
  | _ => false

/-- The name stands for a register of the state: WatchHi has eight (R28). -/
def RegName.real : RegName → Bool
  | .watchHi sel => decide (sel < 8)
  | _ => true

theorem regName_real (rd sel : Nat) : (regName rd sel).real = true := by
  unfold regName
  split <;> try rfl
  split
  · rename_i h; simp [RegName.real, h]
  · rfl

/-- A register reads back what was stored in it; a 32-bit one its low half. -/
theorem get_put_same (k : Cp0) (r : RegName) (v : Word) (hr : r.real = true) (hk : Other.wf k.other = true) :
    (k.put r v).get r = if r.wide then v else (v.setWidth 32).setWidth 64 := by
  cases r <;> simp only [Cp0.put, Cp0.get, RegName.wide] <;> try rfl
  case watchHi sel =>
    have : sel < 8 := by simpa [RegName.real] using hr
    simp [this]
  case other key => exact otherGet_otherPut_same _ none _ _ hk

/-- Storing a register leaves the others alone. -/
theorem get_put_other (k : Cp0) (r q : RegName) (v : Word) (h : q ≠ r) : (k.put r v).get q = k.get q := by
  cases r <;> cases q <;> first
    | rfl
    | exact absurd rfl h
    | skip
  · rename_i a b
    have hab : b ≠ a := fun e => h (by rw [e])
    simp [Cp0.put, Cp0.get, hab.symm]
  · rename_i a b
    exact otherGet_otherPut_other _ _ _ _ fun e => h (by rw [e])

theorem put_other_wf (k : Cp0) (r : RegName) (v : Word) (hk : Other.wf k.other = true) :
    Other.wf (k.put r v).other = true := by
  cases r <;> first | exact hk | exact otherPut_wf _ _ _ hk

end Sys2Proof.Machine
end

