-- ==== Sys2Proof/Laws/Moves.lean ====
section
/-! SUPPORT. What the accesses of the guest moves can do: reading a guest register, writing one, and the two together with
a general register (R101, R102). -/

namespace Sys2Proof.Machine

/-! ### Bits -/

theorem getLsbD_mergeBits {w : Nat} (old new k : BitVec w) (b : Nat) :
    (mergeBits old new k).getLsbD b = if k.getLsbD b then new.getLsbD b else old.getLsbD b := by
  by_cases hb : b < w
  · cases hk : k.getLsbD b <;>
      simp only [mergeBits, BitVec.getLsbD_or, BitVec.getLsbD_and, BitVec.getLsbD_not, hk, hb] <;> simp
  · simp [mergeBits, BitVec.getLsbD_of_ge _ _ (Nat.le_of_not_lt hb)]

theorem getLsbD_low_half (v : Word) (b : Nat) :
    ((v.setWidth 32).setWidth 64).getLsbD b = (decide (b < 32) && v.getLsbD b) := by
  by_cases hb : b < 32
  · simp [hb, show b < 64 by omega]
  · simp [hb]

/-- A register the state holds in 32 bits has no bit above them. -/
theorem get_narrow (k : Cp0) (r : RegName) (h : r.wide = false) (b : Nat) (hb : 32 ≤ b) :
    (k.get r).getLsbD b = false := by
  cases r <;> simp [RegName.wide] at h <;>
    (simp only [Cp0.get, BitVec.getLsbD_setWidth, Bool.and_eq_false_iff]; exact .inr (BitVec.getLsbD_of_ge _ _ hb))

/-! ### Reading -/

/-- A read of a pair that is not absent answers the value R101 gives it. -/
theorem guestRead_ok (s : State) (rd sel : Nat) (h : (s.regInfo rd sel).cls ≠ .absent) :
    s.guestRead rd sel = .ok (readValue s rd sel) := by
  unfold State.guestRead readValue
  cases hc : (s.regInfo rd sel).cls <;> simp_all

theorem guestRead_absent (s : State) (rd sel : Nat) (h : (s.regInfo rd sel).cls = .absent) :
    s.guestRead rd sel = refuse (.noSuchGuestRegister rd sel) := by
  simp [State.guestRead, h]

/-- A read leaves everything as it was, except that Count or Random holds the value read. -/
theorem observe_cases (s : State) (rd sel : Nat) :
    s.observe rd sel = s ∨ (isCount rd sel = true ∨ isRandom rd sel = true) ∧
      s.observe rd sel = { s with guest := s.guest.put (regName rd sel) (s.gcpr rd sel) } := by
  unfold State.observe
  split
  · rename_i h
    simp only [Bool.and_eq_true, Bool.or_eq_true] at h
    exact .inr ⟨h.2, rfl⟩
  · exact .inl rfl

/-- A move from a guest register that exists, or reads as 0, completes. -/
theorem moveFrom_ok (rt rd sel : Nat) (f : Word → Word) (s : State) (h : (s.regInfo rd sel).cls ≠ .absent) :
    moveFrom rt rd sel f s = .ok ((s.observe rd sel).setGpr rt (f (readValue s rd sel))) := by
  simp [moveFrom, guestRead_ok s rd sel h]

theorem moveFrom_absent (rt rd sel : Nat) (f : Word → Word) (s : State) (h : (s.regInfo rd sel).cls = .absent) :
    moveFrom rt rd sel f s = refuse (.noSuchGuestRegister rd sel) := by
  simp [moveFrom, guestRead_absent s rd sel h, refuse]

/-- What such a move leaves. -/
theorem moveFrom_moved (rt rd sel : Nat) (v : Word) (s : State) (hrt : rt < 32) :
    MovedFrom rt rd sel v s ((s.observe rd sel).setGpr rt v).advance := by
  rcases observe_cases s rd sel with h | ⟨hc, h⟩ <;> rw [h]
  · refine ⟨by rw [FrameMove, setGpr_eq]; rfl, fun h0 => getGpr_setGpr_same _ _ _ h0 hrt, rfl,
      fun r hr => getGpr_setGpr_other _ _ _ _ hr, fun _ _ => by simp, .inl (by simp)⟩
  · refine ⟨by rw [FrameMove, setGpr_eq]; rfl, fun h0 => getGpr_setGpr_same _ _ _ h0 hrt, rfl,
      fun r hr => getGpr_setGpr_other _ _ _ _ hr, fun h1 h2 => ?_, .inr (by simp)⟩
    simp [h1, h2] at hc

/-- Everything a completed move from the guest can have done. -/
theorem moveFrom_next {rt rd sel : Nat} {f : Word → Word} {s u : State} (h : moveFrom rt rd sel f s = .ok u) :
    (s.regInfo rd sel).cls ≠ .absent ∧ u = (s.observe rd sel).setGpr rt (f (readValue s rd sel)) := by
  by_cases hc : (s.regInfo rd sel).cls = .absent
  · simp [moveFrom_absent _ _ _ _ _ hc, refuse] at h
  · rw [moveFrom_ok _ _ _ _ _ hc] at h
    exact ⟨hc, (Except.ok.inj h).symm⟩

/-! ### Writing -/

/-- The bits of a write under a mask that reach the register (R102). -/
def State.writeMask (s : State) (rd sel : Nat) (m : Word) : Word :=
  match (s.regInfo rd sel).cls with
  | .shared => m &&& s.writableBits rd sel &&& (s.regInfo rd sel).visible
  | _ => m &&& s.writableBits rd sel

theorem getLsbD_writeMask (s : State) (rd sel : Nat) (m : Word) (b : Nat) :
    (s.writeMask rd sel m).getLsbD b = changedBit s rd sel m b := by
  unfold State.writeMask changedBit
  cases hc : (s.regInfo rd sel).cls <;> simp

/-- Everything a write can do: refuse an absent pair, ignore a pair the guest has no register for, or merge the written
bits into the register. -/
theorem guestWrite_eq (s : State) (rd sel : Nat) (new m : Word) :
    s.guestWrite rd sel new m =
      if (s.regInfo rd sel).cls = .absent then refuse (.noSuchGuestRegister rd sel)
      else if s.regPresent rd sel = true then
        .ok { s with
          guest := s.guest.put (regName rd sel) (mergeBits (s.guest.get (regName rd sel)) new (s.writeMask rd sel m)) }
      else .ok s := by
  unfold State.guestWrite State.regPresent State.writeMask
  cases hc : (s.regInfo rd sel).cls <;> simp

/-- What a completed write leaves, bit by bit. -/
theorem guestWrite_moved {s u : State} {rd sel : Nat} {new m : Word} (h : s.guestWrite rd sel new m = .ok u)
    (hk : Other.wf s.guest.other = true)
    (hw : (regName rd sel).wide = true ∨ ∀ b, 32 ≤ b → m.getLsbD b = false) :
    MovedTo rd sel new m s u.advance := by
  rw [guestWrite_eq] at h
  split at h
  · cases h
  split at h
  · rename_i hp
    obtain rfl := Except.ok.inj h
    refine ⟨rfl, rfl, fun hn => by simp [hp] at hn, fun _ => ⟨fun b _ => ?_, fun rd' sel' hne => ?_⟩⟩
    · simp only [advance_guest]
      rw [get_put_same _ _ _ (regName_real rd sel) hk]
      split
      · rw [getLsbD_mergeBits, getLsbD_writeMask]
      · rename_i hn
        have hm := hw.resolve_left hn
        rw [getLsbD_low_half, getLsbD_mergeBits, getLsbD_writeMask]
        by_cases hb : b < 32
        · simp [hb]
        · simp [hb, changedBit, hm b (by omega),
            get_narrow s.guest (regName rd sel) (by simpa using hn) b (by omega)]
    · exact get_put_other _ _ _ _ hne
  · rename_i hp
    obtain rfl := Except.ok.inj h
    exact ⟨rfl, rfl, fun _ => rfl, fun hp' => absurd hp' hp⟩

/-- A write changes nothing but the guest registers. -/
theorem guestWrite_frame {s u : State} {rd sel : Nat} {new m : Word} (h : s.guestWrite rd sel new m = .ok u) :
    u = { s with guest := u.guest } := by
  rw [guestWrite_eq] at h
  split at h
  · cases h
  split at h <;> (obtain rfl := Except.ok.inj h; rfl)

/-- A write that stops has found no register. -/
theorem guestWrite_error {s : State} {rd sel : Nat} {new m : Word} {e : Stop} (h : s.guestWrite rd sel new m = .error e) :
    (s.regInfo rd sel).cls = .absent ∧ e = .refuse (.noSuchGuestRegister rd sel) := by
  rw [guestWrite_eq] at h
  split at h
  · rename_i hc
    exact ⟨hc, (Except.error.inj h).symm⟩
  · split at h <;> cases h

/-- The tests of the move-high instructions pass where the register is absent or read as 0, or is extended and reachable
(R106, R108). -/
theorem highHalfGuards_ok {s : State} {rd sel : Nat} :
    highHalfGuards s rd sel = .ok () ↔ (s.regPresent rd sel = true →
      (s.regInfo rd sel).extended = true ∧ ((s.regInfo rd sel).xpaOnly = false ∨ s.xpaEnabled = true)) := by
  unfold highHalfGuards refuse
  cases s.regPresent rd sel <;> cases (s.regInfo rd sel).extended <;> cases (s.regInfo rd sel).xpaOnly <;>
    cases s.xpaEnabled <;> simp

/-! ### The rows of the table that a well-formed configuration fixes -/

theorem rowIs32_spec {cfg : Config} {rd sel : Nat} (h : rowIs32 cfg rd sel = true) :
    (lookupReg cfg.guestRegs rd sel).width = .w32 ∧ (lookupReg cfg.guestRegs rd sel).extended = false := by
  simpa [rowIs32] using h

/-- A register the state holds in 32 bits is 32 bits wide in the table and not extended (R28). -/
theorem narrow_row {cfg : Config} (h : guestRegsOk cfg = true) {rd sel : Nat} (hn : (regName rd sel).wide = false) :
    (lookupReg cfg.guestRegs rd sel).width = .w32 ∧ (lookupReg cfg.guestRegs rd sel).extended = false := by
  apply rowIs32_spec
  simp only [guestRegsOk, Bool.and_eq_true, List.all_eq_true, List.mem_range] at h
  unfold regName at hn
  split at hn
  case h_15 =>
    by_cases hs : sel < 8
    · exact (h.1.1.2 _ hs).2
    · simp [hs, RegName.wide] at hn
  all_goals first
    | simp only [h]
    | simp [RegName.wide] at hn

theorem wf_guestRegsOk {s : State} (h : s.wf = true) : guestRegsOk s.cfg = true := by
  simp only [State.wf, configOk, Bool.and_eq_true] at h
  exact h.1.1.1.2.1.1.1.1.1.2

theorem wf_guestOther {s : State} (h : s.wf = true) : Other.wf s.guest.other = true := by
  simp only [State.wf, ctxOk, Bool.and_eq_true] at h
  exact h.1.2.2

/-- A 64-bit register of the table is one the state holds in 64 bits. -/
theorem wide_of_w64 {s : State} (h : s.wf = true) {rd sel : Nat} (hw : (s.regInfo rd sel).width = .w64) :
    (regName rd sel).wide = true := by
  by_contra hn
  have := (narrow_row (wf_guestRegsOk h) (Bool.not_eq_true _ ▸ hn)).1
  rw [State.regInfo] at hw
  simp [this] at hw

/-- An extended register of the table is one the state holds in 64 bits. -/
theorem wide_of_extended {s : State} (h : s.wf = true) {rd sel : Nat} (hw : (s.regInfo rd sel).extended = true) :
    (regName rd sel).wide = true := by
  by_contra hn
  have := (narrow_row (wf_guestRegsOk h) (Bool.not_eq_true _ ▸ hn)).2
  rw [State.regInfo] at hw
  simp [this] at hw

end Sys2Proof.Machine
end

