-- ==== Sys2Proof/Laws/PerInstr.lean ====
section
/-! SUPPORT. A statement made of every instruction, one lemma for each constructor. -/

namespace Sys2Proof

/-- The top eleven bits of a format `GM` word are `010000 00011`, and its bits 7:3 are 0 (R71, R74). -/
theorem encodeGm_form (sub rt rd sel : Nat) (hs : sub < 8) (h : gmOk rt rd sel = true) :
    wordField (encodeGm sub rt rd sel) 21 11 = 0b01000000011 ∧ wordField (encodeGm sub rt rd sel) 3 5 = 0 := by
  simp only [gmOk, rtOk, rdOk, selOk, Bool.and_eq_true, decide_eq_true_eq] at h
  have ht : (encodeGm sub rt rd sel).toNat = 0x40600000 + rt * 2 ^ 16 + rd * 2 ^ 11 + sub * 2 ^ 8 + sel := by
    simp only [encodeGm, BitVec.toNat_ofNat]
    omega
  simp only [wordField, ht]
  omega

end Sys2Proof

namespace Sys2Proof.Laws.EncodedInFormat

/-- The word of a well-formed instruction has the fixed fields of its format: format `GM` with opcode 010000, `V` 00011 and
zeros in bits 7:3 (R71), or format `CO` with opcode 010000, bit 25 set and zeros in bits 24:6 (R72). -/
def Statement (i : Instr) : Prop :=
  i.wf = true →
    (wordField (encode i) 21 11 = 0b01000000011 ∧ wordField (encode i) 3 5 = 0) ∨
      (wordField (encode i) 25 7 = 0b0100001 ∧ wordField (encode i) 6 19 = 0)

theorem dmfgc0 (rt rd sel : Nat) : Statement (.dmfgc0 rt rd sel) := fun h => .inl (encodeGm_form 1 _ _ _ (by omega) h)
theorem dmtgc0 (rt rd sel : Nat) : Statement (.dmtgc0 rt rd sel) := fun h => .inl (encodeGm_form 3 _ _ _ (by omega) h)
theorem mfgc0 (rt rd sel : Nat) : Statement (.mfgc0 rt rd sel) := fun h => .inl (encodeGm_form 0 _ _ _ (by omega) h)
theorem mfhgc0 (rt rd sel : Nat) : Statement (.mfhgc0 rt rd sel) := fun h => .inl (encodeGm_form 4 _ _ _ (by omega) h)
theorem mtgc0 (rt rd sel : Nat) : Statement (.mtgc0 rt rd sel) := fun h => .inl (encodeGm_form 2 _ _ _ (by omega) h)
theorem mthgc0 (rt rd sel : Nat) : Statement (.mthgc0 rt rd sel) := fun h => .inl (encodeGm_form 6 _ _ _ (by omega) h)
theorem tlbginv : Statement .tlbginv := fun _ => .inr (by decide)
theorem tlbginvf : Statement .tlbginvf := fun _ => .inr (by decide)
theorem tlbgp : Statement .tlbgp := fun _ => .inr (by decide)
theorem tlbgr : Statement .tlbgr := fun _ => .inr (by decide)
theorem tlbgwi : Statement .tlbgwi := fun _ => .inr (by decide)
theorem tlbgwr : Statement .tlbgwr := fun _ => .inr (by decide)
theorem tlbinv : Statement .tlbinv := fun _ => .inr (by decide)
theorem tlbinvf : Statement .tlbinvf := fun _ => .inr (by decide)
theorem tlbp : Statement .tlbp := fun _ => .inr (by decide)
theorem tlbr : Statement .tlbr := fun _ => .inr (by decide)
theorem tlbwi : Statement .tlbwi := fun _ => .inr (by decide)
theorem tlbwr : Statement .tlbwr := fun _ => .inr (by decide)

end Sys2Proof.Laws.EncodedInFormat
end

