-- ==== Sys2Proof/Laws/Tlb.lean ====
section
/-! SUPPORT. What the shared TLB operations can do: the invalidation range and the marking (R131, R133), the probe (R132,
R135), the read (R136), the write (R139, R140). -/

namespace Sys2Proof.Machine

/-! ### Fields of built values -/

theorem hasTlb_iff (k : Cp0) : k.hasTlb = true ↔ k.mt = 1 ∨ k.mt = 4 := by simp [Cp0.hasTlb]

theorem getLsbD_makeLo (high : BitVec 34) (pfn : BitVec 24) (c : BitVec 3) (d v g : Bool) (b : Nat) :
    (makeLo high pfn c d v g).getLsbD b =
      if b < 1 then (BitVec.ofBool g).getLsbD b
      else if b - 1 < 1 then (BitVec.ofBool v).getLsbD (b - 1)
      else if b - 1 - 1 < 1 then (BitVec.ofBool d).getLsbD (b - 1 - 1)
      else if b - 1 - 1 - 1 < 3 then c.getLsbD (b - 1 - 1 - 1)
      else if b - 1 - 1 - 1 - 3 < 24 then pfn.getLsbD (b - 1 - 1 - 1 - 3)
      else high.getLsbD (b - 1 - 1 - 1 - 3 - 24) := by
  simp only [← BitVec.getLsbD_append]
  rfl

theorem makeLo_fields (high : BitVec 34) (pfn : BitVec 24) (c : BitVec 3) (d v g : Bool) :
    (makeLo high pfn c d v g).extractLsb' 6 24 = pfn ∧ (makeLo high pfn c d v g).extractLsb' 3 3 = c ∧
      (makeLo high pfn c d v g).getLsbD 2 = d ∧ (makeLo high pfn c d v g).getLsbD 1 = v ∧
      (makeLo high pfn c d v g).getLsbD 0 = g ∧ (makeLo high pfn c d v g).extractLsb' 30 34 = high := by
  refine ⟨?_, ?_, ?_, ?_, ?_, ?_⟩
  · ext i hi
    rw [BitVec.getElem_extractLsb', getLsbD_makeLo, if_neg (by omega), if_neg (by omega), if_neg (by omega),
      if_neg (by omega), if_pos (by omega), show 6 + i - 1 - 1 - 1 - 3 = i by omega, BitVec.getLsbD_eq_getElem hi]
  · ext i hi
    rw [BitVec.getElem_extractLsb', getLsbD_makeLo, if_neg (by omega), if_neg (by omega), if_neg (by omega),
      if_pos (by omega), show 3 + i - 1 - 1 - 1 = i by omega, BitVec.getLsbD_eq_getElem hi]
  · rw [getLsbD_makeLo]; simp
  · rw [getLsbD_makeLo]; simp
  · rw [getLsbD_makeLo]; simp
  · ext i hi
    rw [BitVec.getElem_extractLsb', getLsbD_makeLo, if_neg (by omega), if_neg (by omega), if_neg (by omega),
      if_neg (by omega), if_neg (by omega), show 30 + i - 1 - 1 - 1 - 3 - 24 = i by omega,
      BitVec.getLsbD_eq_getElem hi]

theorem getLsbD_makeHi (r : BitVec 2) (vpn2 : BitVec 49) (asid : BitVec 8) (b : Nat) :
    (makeHi r vpn2 asid).getLsbD b =
      if b < 8 then asid.getLsbD b
      else if b - 8 < 5 then (0#5).getLsbD (b - 8)
      else if b - 8 - 5 < 49 then vpn2.getLsbD (b - 8 - 5)
      else r.getLsbD (b - 8 - 5 - 49) := by
  simp only [← BitVec.getLsbD_append]
  rfl

theorem makeHi_fields (r : BitVec 2) (vpn2 : BitVec 49) (asid : BitVec 8) :
    (makeHi r vpn2 asid).extractLsb' 62 2 = r ∧ (makeHi r vpn2 asid).extractLsb' 13 49 = vpn2 ∧
      (makeHi r vpn2 asid).extractLsb' 8 5 = 0#5 ∧ (makeHi r vpn2 asid).extractLsb' 0 8 = asid := by
  refine ⟨?_, ?_, ?_, ?_⟩ <;> ext i hi <;> rw [BitVec.getElem_extractLsb', getLsbD_makeHi]
  · rw [if_neg (by omega), if_neg (by omega), if_neg (by omega), show 62 + i - 8 - 5 - 49 = i by omega,
      BitVec.getLsbD_eq_getElem hi]
  · rw [if_neg (by omega), if_neg (by omega), if_pos (by omega), show 13 + i - 8 - 5 = i by omega,
      BitVec.getLsbD_eq_getElem hi]
  · rw [if_neg (by omega), if_pos (by omega), show 8 + i - 8 = i by omega, BitVec.getLsbD_eq_getElem hi]
  · rw [if_pos (by omega), Nat.zero_add, BitVec.getLsbD_eq_getElem hi]

/-- A field assignment, bit by bit. -/
theorem getLsbD_putField {w len : Nat} (v : BitVec w) (lo : Nat) (f : BitVec len) (b : Nat) (hl : lo + len ≤ w) :
    (putField v lo f).getLsbD b = if lo ≤ b ∧ b < lo + len then f.getLsbD (b - lo) else v.getLsbD b := by
  simp only [putField, BitVec.getLsbD_or, BitVec.getLsbD_and, BitVec.getLsbD_not, BitVec.getLsbD_shiftLeft,
    BitVec.getLsbD_setWidth]
  by_cases hw : b < w
  · by_cases h1 : lo ≤ b
    · by_cases h2 : b < lo + len
      · simp [hw, h1, h2, show ¬b < lo by omega, show b - lo < w by omega, show b - lo < len by omega]
      · simp [hw, h1, h2, BitVec.getLsbD_of_ge f (b - lo) (by omega)]
        exact fun _ => by omega
    · simp [hw, h1, show b < lo by omega]
  · have : v.getLsbD b = false := BitVec.getLsbD_of_ge _ _ (by omega)
    simp [hw, this]
    intro h1 h2; omega

theorem extract_putField {w len : Nat} (v : BitVec w) (lo : Nat) (f : BitVec len) (hl : lo + len ≤ w) :
    (putField v lo f).extractLsb' lo len = f := by
  ext i hi
  rw [BitVec.getElem_extractLsb', getLsbD_putField _ _ _ _ hl]
  simp [hi]

theorem getLsbD_putField_other {w len : Nat} (v : BitVec w) (lo : Nat) (f : BitVec len) (b : Nat) (hl : lo + len ≤ w)
    (hb : b < lo ∨ lo + len ≤ b) : (putField v lo f).getLsbD b = v.getLsbD b := by
  rw [getLsbD_putField _ _ _ _ hl, if_neg (by omega)]

/-! ### Invalidation -/

/-- The range is R131's: with `MT = 4` and Index beyond the TLB there is none. -/
theorem invRange_ok {c : Ctx} {s : State} {range : List Nat} (h : invRange c s = .ok range)
    (ht : (s.cp0 c).hasTlb = true) : RangeIndexOk c s ∧ ∀ i, i ∈ range ↔ InRange c s i := by
  rw [hasTlb_iff] at ht
  unfold invRange refuse at h
  unfold RangeIndexOk InRange
  rcases ht with ht | ht <;> simp only [ht] at h ⊢
  · simp at h
    subst h
    simp
  · by_cases h1 : s.tlbEntries c ≤ s.idx c
    · simp [h1] at h
    · by_cases h2 : (s.cp0 c).ie = 2
      · by_cases h3 : s.idx c < s.vtlbEntries c
        · simp [h1, h2, h3] at h
          subst h
          simp [h2, h3]
          omega
        · simp [h1, h2, h3] at h
          subst h
          simp [h2, h3]
          omega
      · simp [h1, h2] at h
        subst h
        simp [h2]
        omega

theorem invRange_exists {c : Ctx} {s : State} (h : RangeIndexOk c s) : ∃ range, invRange c s = .ok range := by
  unfold invRange
  rw [if_neg (fun hn => absurd (h hn.1) (by omega))]
  split
  · exact ⟨_, rfl⟩
  · split <;> exact ⟨_, rfl⟩

theorem invRange_error {c : Ctx} {s : State} {e : Stop} (h : invRange c s = .error e) :
    e = .refuse .indexBeyondTlb := by
  unfold invRange refuse at h
  repeat' split at h
  all_goals first
    | exact (Except.error.inj h).symm
    | cases h

theorem getElem?_invalidateWhere (c : Ctx) (range : List Nat) (test : TlbEntry → Bool) (s : State) (i : Nat) :
    ((invalidateWhere c range test s).tlb c)[i]? =
      (s.tlb c)[i]?.map fun e => if i ∈ range ∧ test e = true then { e with hardwareInvalid := true } else e := by
  simp [invalidateWhere]

/-- Marking changes exactly the entries in range that satisfy the test. -/
theorem invalidateWhere_invalidated (c : Ctx) (range : List Nat) (test : TlbEntry → Bool) (hit : TlbEntry → Prop)
    (s : State) (hr : ∀ i, i ∈ range ↔ InRange c s i) (ht : ∀ e, test e = true ↔ hit e) :
    Invalidated c hit s (invalidateWhere c range test s).advance := by
  refine ⟨?_, by simp [invalidateWhere], fun i e he => ⟨fun h => ?_, fun h => ?_⟩⟩
  · simp only [FrameTlb, invalidateWhere, advance_tlb, setTlb_tlb_same]
    cases c <;> rfl
  · rw [advance_tlb, getElem?_invalidateWhere, he]
    simp [(hr i).2 h.1, (ht e).2 h.2]
  · rw [advance_tlb, getElem?_invalidateWhere, he]
    rw [← hr, ← ht] at h
    simp [h]

theorem gidOk_iff (s : State) (gid : BitVec 8) (e : TlbEntry) : s.gidOk gid e = true ↔ OwnedBy gid s e := by
  unfold State.gidOk OwnedBy
  cases s.g1 <;> simp

theorem asidTest_iff (c : Ctx) (gid : BitVec 8) (s : State) (e : TlbEntry) :
    asidTest c gid s e = true ↔
      e.asid = hiAsid s.cfg (s.cp0 c).entryHi ∧ e.g = false ∧ OwnedBy gid s e := by
  rw [← gidOk_iff]
  simp [asidTest, and_assoc]

/-! ### Probe -/

theorem notInvalid_iff (s : State) (c : Ctx) (e : TlbEntry) :
    s.notInvalid c e = true ↔ (s.cp0 c).ie < 2 ∨ e.hardwareInvalid = false := by
  unfold State.notInvalid Cp0.hasInvalid
  by_cases h : 2 ≤ (s.cp0 c).ie
  · simp [h]; omega
  · simp [h]; omega

theorem markedInvalid_iff (s : State) (c : Ctx) (e : TlbEntry) :
    s.markedInvalid c e = true ↔ 2 ≤ (s.cp0 c).ie ∧ e.hardwareInvalid = true := by
  simp [State.markedInvalid, Cp0.hasInvalid]

theorem matches_iff (c : Ctx) (gid : BitVec 8) (s : State) (i : Nat) :
    probeMatch c s (s.entry c i) = true ∧ s.gidOk gid (s.entry c i) = true ↔ Matches c gid s i := by
  rw [gidOk_iff]
  simp [probeMatch, Matches, notInvalid_iff, and_assoc]

/-- `Hit` holds exactly the entries that match. -/
theorem mem_hits {c : Ctx} {gid : BitVec 8} {s : State} {i : Nat} :
    i ∈ hits c gid s ↔ i < s.tlbEntries c ∧ Matches c gid s i := by
  rw [← matches_iff]
  simp [hits]

/-- TLBGP finds the matching entries that it sees. -/
theorem mem_seenHits {c : Ctx} {gid : BitVec 8} {s : State} {i : Nat} :
    i ∈ seenHits c gid s ↔ i ∈ hits c gid s ∧ probeSees c s i (s.entry c i) = true :=
  List.mem_filter

theorem probeSees_of_inPlace {c : Ctx} {s : State} (h : FtlbInPlace c s) {i : Nat} (hi : i < s.tlbEntries c) :
    probeSees c s i (s.entry c i) = true := by
  unfold probeSees
  cases hf : s.inFtlb c i
  · simp
  · simp [h i hi hf]

/-- Where every FTLB entry sits in its set, TLBGP sees every matching entry. -/
theorem seenHits_of_inPlace {c : Ctx} {gid : BitVec 8} {s : State} (h : FtlbInPlace c s) :
    seenHits c gid s = hits c gid s :=
  List.filter_eq_self.2 fun _ hi => probeSees_of_inPlace h (mem_hits.1 hi).1

theorem nodup_hits (c : Ctx) (gid : BitVec 8) (s : State) : (hits c gid s).Nodup :=
  List.nodup_range.filter _

theorem miss_bit (v : BitVec 31) : ((1#1 ++ v : Half)).getLsbD 31 = true :=
  (BitVec.getLsbD_append (x := 1#1) (y := v)).trans rfl

/-- Everything a probe can answer: bit 31 and free bits after a miss, one of the entries found, or, with several found, a
Machine Check. -/
theorem probeResult_cases (found : List Nat) (s : State) :
    (found = [] ∧ probeResult found s = .ok (1#1 ++ Config.freeMissIndex s.draws)) ∨
    (∃ k ∈ found, probeResult found s = .ok (BitVec.ofNat 32 k)) ∨
    (2 ≤ found.length ∧ probeResult found s = raise .machineCheck s) := by
  match found with
  | [] => exact .inl ⟨rfl, rfl⟩
  | [i] => exact .inr (.inl ⟨i, by simp, rfl⟩)
  | i :: j :: rest =>
    right
    by_cases h : Config.freeProbeMachineCheck s.draws = true
    · exact .inr ⟨by simp, if_pos h⟩
    · refine .inl ⟨_, ?_, if_neg h⟩
      have hlt : Config.freeHitChoice s.draws % ((j :: rest).length + 1) < (i :: j :: rest).length :=
        Nat.mod_lt _ (by simp)
      rw [List.getD_eq_getElem _ _ hlt]
      exact List.getElem_mem hlt

/-- A completed probe writes Index and nothing else. -/
theorem probe_ok {c : Ctx} {found : List Nat} {s u : State} (h : probe c found s = .ok u) :
    ∃ v, probeResult found s = .ok v ∧ u = s.setIndex c v := by
  unfold probe at h
  split at h
  · rename_i v hv
    exact ⟨v, hv, (Except.ok.inj h).symm⟩
  · cases h

/-- A probe that stops has raised the Machine Check of several matches. -/
theorem probe_error {c : Ctx} {found : List Nat} {s : State} {e : Stop} (h : probe c found s = .error e) :
    2 ≤ found.length ∧ e = .fault (.trap { kind := .machineCheck, takenIn := s.cur, pc := s.pc }) := by
  unfold probe at h
  split at h
  · cases h
  · rename_i e' he
    obtain rfl := Except.error.inj h
    rcases probeResult_cases found s with ⟨_, h'⟩ | ⟨k, _, h'⟩ | ⟨hl, h'⟩ <;> rw [h'] at he
    · cases he
    · cases he
    · exact ⟨hl, (Except.error.inj he).symm⟩

theorem seenHits_length_le (c : Ctx) (gid : BitVec 8) (s : State) : (seenHits c gid s).length ≤ (hits c gid s).length :=
  List.length_filter_le _ _

/-- Where at most one entry matches, a probe finds at most one. -/
theorem hits_length_le_one {c : Ctx} {gid : BitVec 8} {s : State}
    (h : ∀ i j, i < s.tlbEntries c → j < s.tlbEntries c → Matches c gid s i → Matches c gid s j → i = j) :
    (hits c gid s).length ≤ 1 := by
  by_contra hl
  have h0 : (hits c gid s)[0] ∈ hits c gid s := List.getElem_mem (by omega)
  have h1 : (hits c gid s)[1] ∈ hits c gid s := List.getElem_mem (by omega)
  have he := h _ _ (mem_hits.1 h0).1 (mem_hits.1 h1).1 (mem_hits.1 h0).2 (mem_hits.1 h1).2
  exact absurd ((nodup_hits c gid s).getElem_inj_iff.1 he) (by omega)

/-! ### Read -/

theorem loReads_makeLo (s : State) (free : BitVec 34) (mask : BitVec 16) (pfn : BitVec 24) (c : BitVec 3)
    (d v g : Bool) :
    LoReads s.cfg mask pfn c d v g (makeLo (s.readHigh free) (clearUnder s.cfg.tlbMaskOnRead pfn mask) c d v g) := by
  obtain ⟨h1, h2, h3, h4, h5, h6⟩ :=
    makeLo_fields (s.readHigh free) (clearUnder s.cfg.tlbMaskOnRead pfn mask) c d v g
  exact ⟨h1, h2, h3, h4, h5, fun h => by rw [h6, State.readHigh, h]; rfl⟩

/-- Loading a valid entry. -/
theorem loadEntry_regs (c : Ctx) (e : TlbEntry) (s t : State) (ht : t.cp0 c = (loadEntry c e s).cp0 c) :
    RegsHoldEntry c e s t := by
  rw [RegsHoldEntry, ht]
  simp only [loadEntry, setCp0_cp0_same]
  obtain ⟨h1, h2, h3, h4⟩ := makeHi_fields e.r (clearUnder s.cfg.tlbMaskOnRead e.vpn2 e.mask) e.asid
  refine ⟨h1, h2, h3, h4, loReads_makeLo .., loReads_makeLo .., extract_putField _ _ _ (by omega), fun b hb => ?_,
    trivial⟩
  exact getLsbD_putField_other _ _ _ _ (by omega) (by omega)

/-- Loading an invalid entry. -/
theorem loadInvalid_regs (c : Ctx) (s t : State) (ht : t.cp0 c = (loadInvalid c s).cp0 c) : RegsHoldInvalid c s t := by
  rw [RegsHoldInvalid, ht]
  simp only [loadInvalid, setCp0_cp0_same]
  refine ⟨rfl, extract_putField _ _ _ (by omega), fun b hb => ?_, trivial⟩
  exact getLsbD_putField_other _ _ _ _ (by omega) (by omega)

theorem updateRid_becomes (s t : State) (v : BitVec 8) (hg : s.g1 = t.g1) (hc : s.guestCtl1 = t.guestCtl1) :
    RidBecomes v s (t.updateRid v).advance := by
  unfold RidBecomes State.updateRid
  rw [← hg]
  refine ⟨fun h => by simp [h, hc], fun h => ?_⟩
  simp only [h, if_true, advance_guestCtl1, setRid_guestCtl1, hc]
  exact ⟨extract_putField _ _ _ (by omega), fun b hb => getLsbD_putField_other _ _ _ _ (by omega) (by omega)⟩

theorem updateRid_eq (s : State) (v : BitVec 8) : s.updateRid v = { s with guestCtl1 := (s.updateRid v).guestCtl1 } := by
  unfold State.updateRid
  split <;> rfl

/-! ### Write -/

/-- The entry built from the registers is R139's. -/
theorem newEntry_written (c : Ctx) (g : Bool) (gid : BitVec 8) (s : State) (old : TlbEntry) :
    WrittenEntry c g gid s old (newEntry c g gid s old) := by
  refine ⟨rfl, rfl, rfl, rfl, rfl, rfl, rfl, rfl, rfl, rfl, rfl, rfl, rfl, fun h => by simp [newEntry, h],
    fun h => by simp [newEntry, h], fun h => ?_, fun h => ?_⟩
  · simp [newEntry, Cp0.hasInvalid, Cp0.ehinv, h]
  · simp [newEntry, Cp0.hasInvalid, show ¬2 ≤ (s.cp0 c).ie by omega]

/-- Under the premise of R140, or with `EHINV = 1`, there is no conflict. -/
theorem writeConflict_of_allowed {c : Ctx} {i : Nat} {g : Bool} {gid : BitVec 8} {s : State}
    (h : WriteAllowed c i g gid s) : writeConflict c i g gid s = false := by
  unfold writeConflict
  rcases h with h | ⟨h1, h2⟩
  · simp [h]
  · have hm : multipleMatch c i g gid s = false := by
      simp only [multipleMatch, List.any_eq_false, List.mem_range]
      intro j hj
      by_cases hji : j = i
      · simp [hji]
      · cases hn : s.notInvalid c (s.entry c j)
        · simp
        · simp [h1 j hj hji hn]
    have hf : ftlbMisuse c i g gid s = false := by
      unfold ftlbMisuse State.maskField
      cases hi : s.inFtlb c i
      · simp
      · obtain ⟨ha, hb⟩ := h2 hi
        simp [ha, hb]
    simp [hm, hf]

/-- A conflicting write is outside the premise of R140. -/
theorem not_allowed_of_writeConflict {c : Ctx} {i : Nat} {g : Bool} {gid : BitVec 8} {s : State}
    (h : writeConflict c i g gid s = true) : ¬WriteAllowed c i g gid s := by
  intro ha
  rw [writeConflict_of_allowed ha] at h
  cases h

/-- Everything a checked write can do: the write, the write with other entries marked invalid, or a Machine Check; the
last two only outside the premise of R140. -/
theorem checkedWrite_cases (c : Ctx) (i : Nat) (g : Bool) (gid : BitVec 8) (s : State) :
    checkedWrite c i g gid s = .ok (writeEntry c i g gid s) ∨
    (writeConflict c i g gid s = true ∧
      checkedWrite c i g gid s = .ok (invalidateOthers c i (writeEntry c i g gid s))) ∨
    (writeConflict c i g gid s = true ∧ checkedWrite c i g gid s = raise .machineCheck s) := by
  unfold checkedWrite
  split
  · rename_i h
    cases Config.freeWriteOutcome s.draws
    · exact .inl rfl
    · exact .inr (.inl ⟨h, rfl⟩)
    · exact .inr (.inr ⟨h, rfl⟩)
  · exact .inl rfl

theorem checkedWrite_of_allowed {c : Ctx} {i : Nat} {g : Bool} {gid : BitVec 8} {s : State}
    (h : WriteAllowed c i g gid s) : checkedWrite c i g gid s = .ok (writeEntry c i g gid s) := by
  simp [checkedWrite, writeConflict_of_allowed h]

theorem writeEntry_wrote (c : Ctx) (i : Nat) (g : Bool) (gid : BitVec 8) (s : State) :
    WroteEntry c i g gid s (writeEntry c i g gid s).advance := by
  refine ⟨?_, _, newEntry_written c g gid s (s.entry c i), by simp [writeEntry]⟩
  cases c <;> rfl

theorem writeEntry_wroteAtRandom (c : Ctx) (i : Nat) (g : Bool) (gid : BitVec 8) (s : State) :
    WroteEntryAtRandom c i g gid s ((writeEntry c i g gid s).randomMoved c).advance := by
  refine ⟨⟨Config.freeRandomAfter s.draws, ?_⟩, _, newEntry_written c g gid s (s.entry c i), ?_⟩
  · cases c <;> rfl
  · cases c <;> rfl

theorem getElem?_invalidateOthers (c : Ctx) (i : Nat) (s : State) (j : Nat) (e : TlbEntry) (h : (s.tlb c)[j]? = some e) :
    ((invalidateOthers c i s).tlb c)[j]? = some e ∨
      j ≠ i ∧ ((invalidateOthers c i s).tlb c)[j]? = some { e with hardwareInvalid := true } := by
  unfold invalidateOthers
  split
  · simp only [setTlb_tlb_same, List.getElem?_mapIdx, h, Option.map_some]
    split
    · rename_i hj
      exact .inr ⟨hj.1, rfl⟩
    · exact .inl rfl
  · exact .inl h

/-- An invalidation of other entries changes one TLB only. -/
theorem invalidateOthers_frame (c : Ctx) (i : Nat) (s : State) :
    invalidateOthers c i s = s.setTlb c ((invalidateOthers c i s).tlb c) := by
  unfold invalidateOthers
  split
  · simp
  · cases c <;> rfl

/-- A checked write changes one TLB only. -/
theorem checkedWrite_frame {c : Ctx} {i : Nat} {g : Bool} {gid : BitVec 8} {s u : State}
    (h : checkedWrite c i g gid s = .ok u) : u = s.setTlb c (u.tlb c) := by
  rcases checkedWrite_cases c i g gid s with h' | ⟨_, h'⟩ | ⟨_, h'⟩ <;> rw [h'] at h
  · obtain rfl := Except.ok.inj h
    cases c <;> rfl
  · obtain rfl := Except.ok.inj h
    rw [invalidateOthers_frame]
    cases c <;> rfl
  · cases h

/-- A checked write that stops has noticed a conflict and raised its Machine Check. -/
theorem checkedWrite_error {c : Ctx} {i : Nat} {g : Bool} {gid : BitVec 8} {s : State} {e : Stop}
    (h : checkedWrite c i g gid s = .error e) :
    writeConflict c i g gid s = true ∧ e = .fault (.trap { kind := .machineCheck, takenIn := s.cur, pc := s.pc }) := by
  rcases checkedWrite_cases c i g gid s with h' | ⟨_, h'⟩ | ⟨hc, h'⟩ <;> rw [h'] at h
  · cases h
  · cases h
  · exact ⟨hc, (Except.error.inj h).symm⟩

/-- An indexed write is a checked write at Index, which it requires to be in range. -/
theorem indexedWrite_ok {c : Ctx} {g : Bool} {gid : BitVec 8} {s u : State} (h : indexedWrite c g gid s = .ok u) :
    s.idx c < s.tlbEntries c ∧ checkedWrite c (s.idx c) g gid s = .ok u := by
  unfold indexedWrite at h
  split at h
  · cases h
  · rename_i hn
    exact ⟨Nat.lt_of_not_le hn, h⟩

/-- A random write is a checked write at an admitted index, after which Random is free. -/
theorem randomWrite_ok {c : Ctx} {g : Bool} {gid : BitVec 8} {s u : State} (h : randomWrite c g gid s = .ok u) :
    s.randomIndex c < s.randomBound c ∧ ∃ t, checkedWrite c (s.randomIndex c) g gid s = .ok t ∧ u = t.randomMoved c := by
  unfold randomWrite at h
  split at h
  · cases h
  · rename_i hn
    split at h
    · rename_i t ht
      exact ⟨Nat.mod_lt _ (Nat.pos_of_ne_zero hn), t, ht, (Except.ok.inj h).symm⟩
    · cases h

/-- A random write addresses an admitted entry. -/
theorem randomIndex_lt (s : State) (c : Ctx) (h : s.randomBound c ≠ 0) : s.randomIndex c < s.randomBound c :=
  Nat.mod_lt _ (Nat.pos_of_ne_zero h)

theorem randomBound_le (s : State) (c : Ctx) : s.randomBound c ≤ s.tlbEntries c := by
  unfold State.randomBound
  split
  · exact Nat.le_add_right _ _
  · exact Nat.le_refl _

/-- An index below the bound of a random write is admitted. -/
theorem admitted_of_lt_randomBound {s : State} {c : Ctx} {i : Nat} (h : i < s.randomBound c) : Admitted c s i := by
  refine ⟨Nat.lt_of_lt_of_le h (randomBound_le s c), fun h4 hm => ?_⟩
  unfold State.randomBound State.maskField at h
  rwa [if_pos ⟨h4, hm⟩] at h

/-- A TLB with a VTLB or JTLB entry admits a random write. -/
theorem randomBound_ne_zero {s : State} {c : Ctx} (h : 0 < s.vtlbEntries c) : s.randomBound c ≠ 0 := by
  have : s.vtlbEntries c ≤ s.tlbEntries c := Nat.le_add_right _ _
  unfold State.randomBound
  split <;> omega

/-- An indexed write that stops: Index is beyond the TLB, or the write at Index raised the Machine Check of a conflict. -/
theorem indexedWrite_error {c : Ctx} {g : Bool} {gid : BitVec 8} {s : State} {e : Stop}
    (h : indexedWrite c g gid s = .error e) :
    e = .refuse .indexBeyondTlb ∨
      (s.idx c < s.tlbEntries c ∧ writeConflict c (s.idx c) g gid s = true ∧
        e = .fault (.trap { kind := .machineCheck, takenIn := s.cur, pc := s.pc })) := by
  unfold indexedWrite at h
  split at h
  · exact .inl (Except.error.inj h).symm
  · rename_i hn
    exact .inr ⟨Nat.lt_of_not_le hn, checkedWrite_error h⟩

/-- A random write that stops: no entry is admitted, or the write at the drawn entry raised the Machine Check of a
conflict. -/
theorem randomWrite_error {c : Ctx} {g : Bool} {gid : BitVec 8} {s : State} {e : Stop}
    (h : randomWrite c g gid s = .error e) :
    e = .refuse .noAdmittedEntry ∨
      (s.randomIndex c < s.randomBound c ∧ writeConflict c (s.randomIndex c) g gid s = true ∧
        e = .fault (.trap { kind := .machineCheck, takenIn := s.cur, pc := s.pc })) := by
  unfold randomWrite at h
  split at h
  · exact .inl (Except.error.inj h).symm
  · rename_i hn
    split at h
    · cases h
    · rename_i he
      obtain rfl := Except.error.inj h
      exact .inr ⟨randomIndex_lt s c hn, checkedWrite_error he⟩

end Sys2Proof.Machine
end

