-- ==== Sys2Proof/Tests/Slice0.lean ====
section
/-! SUPPORT. Small tests, their expected results taken from the vectors of `95_test_vectors.md` (named in each docstring),
and for every statement with hypotheses a state that meets them all. -/

namespace Sys2Proof.Tests

open Sys2Proof.Machine

/-! ### States and outcomes -/

/-- A completed instruction whose next state satisfies a test. -/
def nextIs (o : Host.Outcome State Fault Refusal) (p : State → Bool) : Bool :=
  match o with
  | .next t => p t
  | .fault _ => false
  | .refused _ => false

/-- The state after a completed instruction, and the given one otherwise. -/
def after (o : Host.Outcome State Fault Refusal) (s : State) : State :=
  match o with
  | .next t => t
  | .fault _ => s
  | .refused _ => s

/-- The trap outcome of an exception at the first instruction. -/
def traps (o : Host.Outcome State Fault Refusal) (kind : ExcKind) (c : Ctx) : Bool :=
  match o with
  | .next _ => false
  | .fault f => f == .trap { kind := kind, takenIn := c, pc := 0xFFFFFFFFBFC00000#64 }
  | .refused _ => false

/-- Configuration `T1` in root-kernel mode: reset with both Status registers 0. -/
def launch : State :=
  { State.reset with
    root := { State.reset.root with status := 0#32 }
    guest := { State.reset.guest with status := 0#32 } }

/-- `launch` with given guest registers. -/
def withGuest (f : Cp0 → Cp0) (s : State) : State := { s with guest := f s.guest }

/-- `launch` with given root registers. -/
def withRoot (f : Cp0 → Cp0) (s : State) : State := { s with root := f s.root }

/-- Guest mode: `GuestCtl0.GM` set on top of what is set. -/
def inGuest (s : State) : State := { s with guestCtl0 := s.guestCtl0 ||| 0x80000000#32 }

/-- GuestID supported, with the given RID and ID. -/
def withIds (rid id : BitVec 8) (s : State) : State :=
  { s with guestCtl0 := s.guestCtl0 ||| 0x00400000#32, guestCtl1 := 0#8 ++ rid ++ 0#8 ++ id }

/-- XPA enabled in the root context. -/
def withXpa (s : State) : State := withRoot (fun k => { k with config3 := 0x00800080#32, pageGrain := 0x20000000#32 }) s

/-- `Guest.EntryLo0` holds a value. -/
def withLo0 (v : Word) (s : State) : State := withGuest (fun k => { k with entryLo0 := v }) s

/-- An entry marked invalid. -/
def invalid : TlbEntry := TlbEntry.marked

/-- The entry `ENT_A` of the vectors, with a GuestID. -/
def entA (gid : BitVec 8) : TlbEntry :=
  { mask := 0#16, r := 0#2, vpn2 := 0x1234#49, asid := 0x21#8, g := false, pfn0 := 0x100#24, c0 := 3#3, d0 := true, v0 := true,
    pfn1 := 0x101#24, c1 := 3#3, d1 := true, v1 := true, guestId := gid, hardwareInvalid := false }

/-- The registers of vector T1 (`EH_A`, `LO0_A`, `LO1_A`, Index 3), the guest TLB all invalid. -/
def regsA (s : State) : State :=
  { withGuest (fun k =>
      { k with index := 3#32, entryHi := 0x02468021#64, entryLo0 := 0x401E#64, entryLo1 := 0x405F#64 }) s with
    guestTlb := List.replicate 4 invalid }

/-- `regsA` with `ENT_A` in slot 3. -/
def loadedA (gid : BitVec 8) (s : State) : State :=
  { regsA s with guestTlb := [invalid, invalid, invalid, entA gid] }

/-- The root registers of vector B1 with GuestID and `RID = 2`, the root TLB all invalid. -/
def regsB (s : State) : State :=
  withIds 2#8 0#8 { withRoot (fun k =>
      { k with index := 7#32, entryHi := 0x80009#64, entryLo0 := 0x801E#64, entryLo1 := 0x805E#64 }) s with
    rootTlb := List.replicate 16 invalid }

/-- The entry TLBWI writes in vector B1. -/
def entB : TlbEntry :=
  { mask := 0#16, r := 0#2, vpn2 := 0x40#49, asid := 9#8, g := true, pfn0 := 0x200#24, c0 := 3#3, d0 := true, v0 := true,
    pfn1 := 0x201#24, c1 := 3#3, d1 := true, v1 := true, guestId := 2#8, hardwareInvalid := false }

/-- The FTLB configuration of 5.2 of the vectors, all eight entries with ASID 5, under a given `Config4.IE` and Index. -/
def ftlb (config4 index : Half) : State :=
  { withGuest (fun k => { k with config := 0x200#32, config4 := config4, index := index, entryHi := 5#64 }) launch with
    guestTlb := List.replicate 8 { TlbEntry.zero with asid := 5#8 }
    cfg := { Config.reset with
      guest := { vtlbEntries := 4, ftlbWays := 2, ftlbSets := 2, ftlbSetOf := [[4, 5], [4, 5], [6, 7], [6, 7]],
                 ftlbMask := 0#16 } } }

/-- `regsA` with a guest TLB of one entry. -/
def oneEntry : State :=
  { regsA launch with
    guestTlb := [invalid]
    cfg := { Config.reset with guest := { Config.reset.guest with vtlbEntries := 1 } } }

/-- `regsA` over a guest TLB of four VTLB and four FTLB entries, all invalid, with a given FTLB page size (as `Mask`). -/
def regsFtlb (mask : BitVec 16) : State :=
  { withGuest (fun k => { k with config := 0x200#32 }) (regsA launch) with
    guestTlb := List.replicate 8 invalid
    cfg := { Config.reset with guest := { (ftlb 0#32 0#32).cfg.guest with ftlbMask := mask } } }

/-- A TLB that maps the page of `regsA` already, in slot 1. -/
def mapped (s : State) : State := { s with guestTlb := (List.replicate 4 invalid).set 1 (entA 0#8) }

/-- The invalid bits of the guest TLB. -/
def marks (s : State) : List Bool := s.guestTlb.map fun e => e.hardwareInvalid

/-! ### Well-formed terms: each check refuses a term that breaks it alone -/

theorem test_wf_accepts_largest_operands : (Instr.mthgc0 31 31 7).wf = true := by decide
theorem test_wf_refuses_rt_32 : (Instr.dmfgc0 32 0 0).wf = false := by decide
theorem test_wf_refuses_rd_32 : (Instr.mtgc0 0 32 0).wf = false := by decide
theorem test_wf_refuses_sel_8 : (Instr.mfhgc0 0 0 8).wf = false := by decide

/-! ### Decoding: a word written out from the spec's encoding, for every constructor (vectors E1 to E24, table 1.1) -/

theorem test_decode_mfgc0 : decodeWord 0b010000_00011_11111_11111_000_00000_111#32 = .ok (.mfgc0 31 31 7) := by decide
theorem test_decode_dmfgc0 : decodeWord 0b010000_00011_00010_01010_001_00000_000#32 = .ok (.dmfgc0 2 10 0) := by decide
theorem test_decode_mtgc0 : decodeWord 0b010000_00011_00100_00000_010_00000_000#32 = .ok (.mtgc0 4 0 0) := by decide
theorem test_decode_dmtgc0 : decodeWord 0b010000_00011_00101_01010_011_00000_000#32 = .ok (.dmtgc0 5 10 0) := by decide
theorem test_decode_mfhgc0 : decodeWord 0b010000_00011_01001_00010_100_00000_000#32 = .ok (.mfhgc0 9 2 0) := by decide
theorem test_decode_mthgc0 : decodeWord 0b010000_00011_11111_11111_110_00000_111#32 = .ok (.mthgc0 31 31 7) := by decide
theorem test_decode_tlbr : decodeWord 0b010000_1_0000000000000000000_000001#32 = .ok .tlbr := by decide
theorem test_decode_tlbwi : decodeWord 0b010000_1_0000000000000000000_000010#32 = .ok .tlbwi := by decide
theorem test_decode_tlbinv : decodeWord 0b010000_1_0000000000000000000_000011#32 = .ok .tlbinv := by decide
theorem test_decode_tlbinvf : decodeWord 0b010000_1_0000000000000000000_000100#32 = .ok .tlbinvf := by decide
theorem test_decode_tlbwr : decodeWord 0b010000_1_0000000000000000000_000110#32 = .ok .tlbwr := by decide
theorem test_decode_tlbp : decodeWord 0b010000_1_0000000000000000000_001000#32 = .ok .tlbp := by decide
theorem test_decode_tlbgr : decodeWord 0b010000_1_0000000000000000000_001001#32 = .ok .tlbgr := by decide
theorem test_decode_tlbgwi : decodeWord 0b010000_1_0000000000000000000_001010#32 = .ok .tlbgwi := by decide
theorem test_decode_tlbginv : decodeWord 0b010000_1_0000000000000000000_001011#32 = .ok .tlbginv := by decide
theorem test_decode_tlbginvf : decodeWord 0b010000_1_0000000000000000000_001100#32 = .ok .tlbginvf := by decide
theorem test_decode_tlbgwr : decodeWord 0b010000_1_0000000000000000000_001110#32 = .ok .tlbgwr := by decide
theorem test_decode_tlbgp : decodeWord 0b010000_1_0000000000000000000_010000#32 = .ok .tlbgp := by decide

/-- Vectors E18 to E23: words that are no instruction of the spec. -/
theorem test_decode_refuses :
    [0x40600500#32, 0x40600700#32, 0x40600008#32, 0x42000005#32, 0x42000049#32, 0x40000000#32].map decodeRow =
      List.replicate 6 none := by decide

/-! ### Single steps -/

/-- Vector M1. -/
theorem test_dmfgc0_entryHi : nextIs (exec (.dmfgc0 2 10 0) (withGuest (fun k => { k with entryHi := 0x400000123456E0A5#64 })
    launch)) (fun t => t.getGpr 2 == 0x400000123456E0A5#64) = true := by decide

/-- Vector M2. -/
theorem test_dmfgc0_to_zero : nextIs (exec (.dmfgc0 0 10 0) (withGuest (fun k => { k with entryHi := 7#64 }) launch))
    (fun t => t.gpr == launch.gpr && t.pc == launch.pc + 4#64) = true := by decide

/-- Vector M6. -/
theorem test_dmtgc0_entryLo0 : nextIs (exec (.dmtgc0 5 2 0) (launch.setGpr 5 0x8000000000000047#64))
    (fun t => t.guest.entryLo0 == 0x8000000000000047#64) = true := by decide

/-- Vector M10. -/
theorem test_dmtgc0_reserved : nextIs (exec (.dmtgc0 4 22 0) (launch.setGpr 4 9#64)) (fun t => t.guest == launch.guest) =
    true := by decide

/-- Vector M13. -/
theorem test_mfgc0_entryLo0 : nextIs (exec (.mfgc0 8 2 0) (withLo0 0x80000003C0000047#64 launch))
    (fun t => t.getGpr 8 == 0xFFFFFFFF80000047#64) = true := by decide

/-- Vector M17. -/
theorem test_mfgc0_watchHi : nextIs (exec (.mfgc0 5 19 0)
    (withGuest (fun k => { k with watchHi := Vector.replicate 8 0xC0000FFF#32 }) launch))
    (fun t => t.getGpr 5 == 0x40000FFF#64) = true := by decide

/-- Vector H2. -/
theorem test_mfhgc0_sign : nextIs (exec (.mfhgc0 8 2 0) (withXpa (withLo0 0x2000000000000000#64 launch)))
    (fun t => t.getGpr 8 == 0xFFFFFFFF80000000#64) = true := by decide

/-- Vector H3. -/
theorem test_mfhgc0_excludes_ri_xi : nextIs (exec (.mfhgc0 8 2 0) (withXpa (withLo0 0xC00000003FFFFFFF#64 launch)))
    (fun t => t.getGpr 8 == 0#64) = true := by decide

/-- Vector M21. -/
theorem test_mtgc0_entryLo0 : nextIs (exec (.mtgc0 4 2 0) (withLo0 0x80000003C0000000#64 (launch.setGpr 4 0x40000047#64)))
    (fun t => t.guest.entryLo0 == 0x4000000000000047#64) = true := by decide

/-- Vector M26. -/
theorem test_mtgc0_watchHi : nextIs (exec (.mtgc0 4 19 0) (launch.setGpr 4 (BitVec.allOnes 64)))
    (fun t => t.guest.watchHi[0] == 0x40000FFF#32) = true := by decide

/-- Vector H5. -/
theorem test_mthgc0_entryLo0 : nextIs (exec (.mthgc0 8 2 0)
    (withXpa (withLo0 0x8000000000000047#64 (launch.setGpr 8 (BitVec.allOnes 64)))))
    (fun t => t.guest.entryLo0 == 0x8000000FC0000047#64) = true := by decide

/-- Vector H6. -/
theorem test_mthgc0_zero : nextIs (exec (.mthgc0 0 2 0) (withXpa (withLo0 0xC000000FC0000047#64 launch)))
    (fun t => t.guest.entryLo0 == 0xC000000000000047#64) = true := by decide

/-- Vector T22. -/
theorem test_tlbginv_asid_and_global : nextIs (exec .tlbginv
    { withGuest (fun k => { k with entryHi := 5#64, index := 77#32 }) launch with
      guestTlb := [(5#8, false), (5#8, true), (6#8, false), (5#8, false)].map
        (fun p => { TlbEntry.zero with asid := p.1, g := p.2 }) })
    (fun t => marks t == [true, false, false, true]) = true := by decide

/-- Vector F7. -/
theorem test_tlbginv_ftlb_set : nextIs (exec .tlbginv (ftlb 0x40000000#32 5#32))
    (fun t => marks t == [false, false, false, false, true, true, false, false]) = true := by decide

/-- Vector T25. -/
theorem test_tlbginvf_guestId : nextIs (exec .tlbginvf
    { withIds 2#8 0#8 launch with guestTlb := [2#8, 3#8, 2#8, 0#8].map (fun i => { TlbEntry.zero with guestId := i }) })
    (fun t => marks t == [true, false, true, false]) = true := by decide

/-- Vector F2. -/
theorem test_tlbginvf_vtlb : nextIs (exec .tlbginvf (ftlb 0x40000000#32 3#32))
    (fun t => marks t == [true, true, true, true, false, false, false, false]) = true := by decide

/-- Vector T8. -/
theorem test_tlbgp_hit : nextIs (exec .tlbgp (loadedA 0#8 launch)) (fun t => t.guest.index == 3#32) = true := by decide

/-- Vector T14. -/
theorem test_tlbgp_other_guest : ∃ v, v.getLsbD 31 = true ∧
    exec .tlbgp (withIds 3#8 0#8 (loadedA 2#8 launch)) = .next (probed .guest v (withIds 3#8 0#8 (loadedA 2#8 launch))) :=
  ⟨_, miss_bit _, rfl⟩

/-- Vector T20. -/
theorem test_tlbgr_valid : nextIs (exec .tlbgr (withIds 7#8 0#8 (withLo0 0xC0000003C0000000#64 (loadedA 2#8 launch))))
    (fun t => t.guest.entryHi == 0x02468021#64 && t.guest.entryLo0 == 0x401E#64 && t.guest.entryLo1 == 0x405E#64 &&
      t.rid == 2#8) = true := by decide

/-- Vector T21. -/
theorem test_tlbgr_invalid : nextIs (exec .tlbgr (withIds 7#8 0#8 (regsA launch)))
    (fun t => t.guest.entryHi == 0x400#64 && t.guest.entryLo0 == 0#64 && t.guest.entryLo1 == 0#64 && t.rid == 0#8) =
    true := by decide

/-- Vector T1. -/
theorem test_tlbgwi_writes : nextIs (exec .tlbgwi (regsA launch))
    (fun t => t.guestTlb == [invalid, invalid, invalid, entA 0#8]) = true := by decide

/-- Vector T6. -/
theorem test_tlbgwi_masks : nextIs (exec .tlbgwi (withGuest (fun k =>
    { k with pageMask := 0x6000#32, entryHi := 0x246E021#64, entryLo0 := 0x40C0#64, entryLo1 := 0x41C0#64 }) (regsA launch)))
    (fun t => t.guestTlb[3]?.map (fun e => (e.mask, e.vpn2, e.pfn0, e.pfn1)) ==
      some (3#16, 0x1234#49, 0x100#24, 0x104#24)) = true := by decide

/-- Vector T27, with one entry in the TLB: the draw can only be 0. -/
theorem test_tlbgwr_one_entry : nextIs (exec .tlbgwr oneEntry) (fun t => t.guestTlb == [entA 0#8]) = true := by
  have hi : oneEntry.randomIndex .guest = 0 := Nat.mod_one _
  have hw : randomWrite .guest false 0#8 oneEntry = .ok ((writeEntry .guest 0 false 0#8 oneEntry).randomMoved .guest) := by
    rw [randomWrite, hi]
    rfl
  change nextIs (finish (randomWrite .guest false 0#8 oneEntry)) _ = true
  rw [hw]
  decide

/-- Vector B16. -/
theorem test_tlbinv_guestId : nextIs (exec .tlbinv
    { withIds 2#8 0#8 launch with
      rootTlb := [(false, 2#8), (false, 0#8), (true, 2#8)].map
        (fun p => { TlbEntry.zero with g := p.1, guestId := p.2 }) })
    (fun t => t.rootTlb.map (fun e => e.hardwareInvalid) == [true, false, false]) = true := by decide

/-- Vector B17. -/
theorem test_tlbinvf_guest : nextIs (exec .tlbinvf
    { inGuest (withGuest (fun k => { k with config4 := 0x60000000#32 }) launch) with
      guestTlb := List.replicate 4 TlbEntry.zero })
    (fun t => marks t == [true, true, true, true] && t.rootTlb == launch.rootTlb) = true := by decide

/-- Vector B7. -/
theorem test_tlbp_root : nextIs (exec .tlbp { regsB launch with rootTlb := (regsB launch).rootTlb.set 7 entB })
    (fun t => t.root.index == 7#32) = true := by decide

/-- Vector B9. -/
theorem test_tlbp_guest : nextIs (exec .tlbp (inGuest (withIds 0#8 2#8 (loadedA 2#8 launch))))
    (fun t => t.guest.index == 3#32 && t.root == launch.root) = true := by decide

/-- Vector B11. -/
theorem test_tlbr_root : nextIs (exec .tlbr { regsB launch with rootTlb := (regsB launch).rootTlb.set 7 entB, guestCtl1 := 0#32 })
    (fun t => t.root.entryHi == 0x80009#64 && t.root.entryLo0 == 0x801F#64 && t.root.entryLo1 == 0x805F#64 && t.rid == 2#8) =
    true := by decide

/-- Vector B14. -/
theorem test_tlbr_guest_hides : nextIs (exec .tlbr (inGuest (withIds 0#8 2#8 (loadedA 3#8 launch))))
    (fun t => t.guest.entryHi == 0x400#64 && t.guest.entryLo0 == 0#64 && t.guestCtl1 == 2#32) = true := by decide

/-- Vector B1. -/
theorem test_tlbwi_root : nextIs (exec .tlbwi (regsB launch))
    (fun t => t.rootTlb == (List.replicate 16 invalid).set 7 entB) = true := by decide

/-- Vector B5. -/
theorem test_tlbwi_guest : nextIs (exec .tlbwi (inGuest (withIds 5#8 2#8 (regsA launch))))
    (fun t => t.guestTlb == [invalid, invalid, invalid, entA 2#8] && t.rootTlb == launch.rootTlb) = true := by decide

/-- Vector B20, with one entry in the TLB: the draw can only be 0. -/
theorem test_tlbwr_one_entry : nextIs (exec .tlbwr (inGuest (withIds 5#8 2#8 oneEntry)))
    (fun t => t.guestTlb == [entA 2#8]) = true := by
  have hi : (inGuest (withIds 5#8 2#8 oneEntry)).randomIndex .guest = 0 := Nat.mod_one _
  have hw : randomWrite .guest false 2#8 (inGuest (withIds 5#8 2#8 oneEntry)) =
      .ok ((writeEntry .guest 0 false 2#8 (inGuest (withIds 5#8 2#8 oneEntry))).randomMoved .guest) := by
    rw [randomWrite, hi]
    rfl
  change nextIs (finish (randomWrite .guest false 2#8 (inGuest (withIds 5#8 2#8 oneEntry)))) _ = true
  rw [hw]
  decide

/-- Vectors G1, T28: a guest-access instruction in guest-kernel mode. -/
theorem test_guest_mode_reserved : traps (exec (.mfgc0 8 2 0) (inGuest launch)) .reservedInstruction .guest = true := by decide

/-- Vectors G4, T29: root-user mode without CU0. -/
theorem test_root_user_unusable : traps (exec .tlbgp (withRoot (fun k => { k with status := 0x10#32 }) launch))
    (.coprocessorUnusable 0) .root = true := by decide

/-- Vector G5. -/
theorem test_no_64bit_operations : traps (exec (.dmfgc0 2 10 0)
    (withRoot (fun k => { k with status := 0x10000010#32 }) launch)) .reservedInstruction .root = true := by decide

/-- Vector E15 fetched and run at the reset vector. -/
theorem test_step_runs : nextIs (step ((launch.setGpr 4 3#64).withFetchWord 32 0x40640200))
    (fun t => t.guest.index == 3#32 && t.pc == 0xFFFFFFFFBFC00004#64) = true := by decide

/-! ### Every statement's hypotheses are met: concrete states and operands, one for each clause -/

/-- The configuration of `launch` with one more pair: (7,3), extended by 32 bits, not for XPA (vectors H12, H13). -/
def extraRow (s : State) : State :=
  { s with cfg := { s.cfg with
      guestRegs := s.cfg.guestRegs ++ [Config.replicatedRow 7 3 .w64 true false (BitVec.allOnes 64)] } }

/-- A state with another number of physical address bits. -/
def withPaBits (n : Nat) (s : State) : State := { s with cfg := { s.cfg with paBits := n } }

/-- `Guest.Config4.IE` below 2: no EHINV and no invalid bit in the guest context. -/
def noInvalid (s : State) : State := withGuest (fun k => { k with config4 := 0x20000000#32 }) s

/-- Both TLBs with every entry valid and alike, so that every write of their registers conflicts with them. -/
def conflicting (s : State) : State :=
  { s with guestTlb := List.replicate 4 (entA 0#8), rootTlb := List.replicate 16 entB }

/-- Root-user mode with coprocessor 0 enabled and 64-bit operations off. -/
def userCu0 : State := withRoot (fun k => { k with status := 0x10000010#32 }) launch

/-- Root-user mode with coprocessor 0 off, the TLBs all invalid. -/
def userOff : State := withRoot (fun k => { k with status := 0x10#32 }) (regsA (regsB launch))

theorem witness_EncodeThenDecodeIsIdentity : (Instr.mthgc0 31 31 7).wf = true ∧ Instr.tlbgp.wf = true := by decide

theorem witness_DecodedWordIsItsEncoding : decodeWord 0x407FFE07#32 = .ok (.mthgc0 31 31 7) := by decide

theorem witness_GuestMoveRowsMatchUnderMask :
    [0x40600007#32, 0x407FF907#32, 0x40640200#32, 0x40655300#32, 0x407FFC07#32, 0x407FFE07#32, 0x407FFD07#32,
      0x407FFF07#32].map (fun w => w &&& 0xFFE007F8#32) =
    [0x40600000#32, 0x40600100#32, 0x40600200#32, 0x40600300#32, 0x40600400#32, 0x40600600#32, 0x40600500#32,
      0x40600700#32] := by decide

theorem witness_StepRunsTheDecodedInstruction :
    launch.pc.toNat % 4 = 0 ∧
    memRead (launch.withFetchWord 32 0x42000010).mem launch.pc 4 = some [0x42#8, 0#8, 0#8, 0x10#8] ∧
    decode true [0x42#8, 0#8, 0#8, 0x10#8] = .ok (.tlbgp, []) ∧
    decode false [0x10#8, 0#8, 0#8, 0x42#8] = .ok (.tlbgp, []) := by decide

theorem witness_StepRefusesWhatIsNotInTheTable_fetched :
    memRead (launch.withFetchWord 32 0).mem launch.pc 4 = some [0#8, 0#8, 0#8, 0#8] ∧ launch.pc.toNat % 4 = 0 := by decide

theorem witness_StepRefusesWhatIsNotInTheTable_word (i : Instr) (h : i.wf = true) :
    encode i ≠ bytesToWord true 0#8 0#8 0#8 0#8 := by
  intro he
  have hz : (encode i).toNat = 0 := by rw [he]; rfl
  cases i <;>
    simp [Instr.wf, gmOk, rtOk, rdOk, selOk, encode, encodeGm, encodeCo] at h hz <;> omega

theorem witness_StepRefusesWhatIsNotInTheTable_misaligned :
    ({ launch with pc := launch.pc + 1#64 } : State).pc.toNat % 4 ≠ 0 ∧
    ({ launch with pc := launch.pc + 3#64 } : State).pc.toNat % 4 ≠ 0 := by decide

theorem witness_StoredInstructionIsRunNext : launch.pc.toNat % 4 = 0 ∧ (Instr.dmtgc0 31 31 7).wf = true := by decide

theorem witness_StepKeepsStateWellFormed :
    (launch.withFetchWord 32 0x40640200).wf = true ∧ ∃ t, step (launch.withFetchWord 32 0x40640200) = .next t :=
  ⟨by decide, _, rfl⟩

theorem witness_ModeIsAFunctionOfFourBitsAndConstant : (∃ t, exec .tlbgr launch = .next t) ∧
    ∃ t, exec .tlbr (inGuest launch) = .next t := ⟨⟨_, rfl⟩, _, rfl⟩

theorem witness_EveryInstructionKeepsMemoryAndAdvances : ∃ t, exec (.mfgc0 2 0 0) launch = .next t := ⟨_, rfl⟩

theorem witness_ConfigurationFieldsAreConstant : ∃ t, exec (.mtgc0 2 16 4) launch = .next t := ⟨_, rfl⟩

theorem witness_GuestModeStepLeavesRootAlone :
    (inGuest launch).isGuestMode = true ∧ (inGuest launch).guest.vz = false ∧
    ∃ t, step ((inGuest launch).withFetchWord 32 0x42000001) = .next t := ⟨by decide, by decide, _, rfl⟩

theorem witness_RootModeInstructionsKeepToTheirContext :
    launch.isRootMode = true ∧ (∃ t, exec .tlbr launch = .next t) ∧ (∃ t, exec .tlbgr launch = .next t) ∧
    (∃ t, exec .tlbginv launch = .next t) ∧ ∃ t, exec (.mtgc0 4 2 0) launch = .next t :=
  ⟨by decide, ⟨_, rfl⟩, ⟨_, rfl⟩, ⟨_, rfl⟩, _, rfl⟩

theorem witness_DisabledCoprocessorTrapsEveryInstruction :
    userOff.modeHasNoMeaning = false ∧ userOff.cp0Enabled = false ∧
    (inGuest (withGuest (fun k => { k with status := 0x10#32 }) launch)).modeHasNoMeaning = false ∧
    (inGuest (withGuest (fun k => { k with status := 0x10#32 }) launch)).cp0Enabled = false := by decide

theorem witness_GuestUseOfGuestAccessIsReserved :
    (inGuest launch).isGuestMode = true ∧ (inGuest launch).guest.vz = false ∧ (inGuest launch).modeHasNoMeaning = false ∧
    (inGuest launch).cp0Enabled = true ∧ Instr.tlbgp ∉ [.tlbinv, .tlbinvf, .tlbp, .tlbr, .tlbwi, .tlbwr] := by decide

theorem witness_DoublewordMovesNeed64BitOperations : RootAccess userCu0 ∧ userCu0.ops64Enabled = false := by
  unfold RootAccess
  decide

theorem witness_InvalidateNeedsIeAtLeastTwo :
    GuestTlbAccess (withGuest (fun k => { k with config4 := 0x20000000#32 }) launch) ∧
    (withGuest (fun k => { k with config4 := 0x20000000#32 }) launch).guest.ie < 2 ∧
    BaseTlbAccess (withRoot (fun k => { k with config4 := 0x20000000#32 }) launch) ∧
    (withRoot (fun k => { k with config4 := 0x20000000#32 }) launch).root.ie < 2 ∧
    BaseTlbAccess (inGuest (withGuest (fun k => { k with config4 := 0#32 }) launch)) ∧
    (withGuest (fun k => { k with config4 := 0#32 }) launch).guest.ie < 2 := by
  unfold GuestTlbAccess BaseTlbAccess RootAccess
  decide

theorem witness_TrapsArePreciseAndTakenInTheExecutingMode :
    (∃ tr, exec .tlbwi userOff = .fault (.trap tr)) ∧ ∃ tr, exec .tlbgwi (inGuest launch) = .fault (.trap tr) :=
  ⟨⟨_, rfl⟩, _, rfl⟩

theorem witness_MachineCheckOnlyFromConflicts :
    (∃ tr, exec .tlbgwi userOff = .fault (.trap tr)) ∧ (∃ tr, exec .tlbgwr userOff = .fault (.trap tr)) ∧
    (∃ tr, exec .tlbwi userOff = .fault (.trap tr)) ∧ (∃ tr, exec .tlbwr userOff = .fault (.trap tr)) ∧
    (∀ k, k < userOff.tlbEntries .guest → WriteAllowed .guest k (userOff.gAnd .guest) userOff.rid userOff) ∧
    ∀ k, k < userOff.tlbEntries userOff.cur → WriteAllowed userOff.cur k (baseG userOff) userOff.curGid userOff := by
  refine ⟨⟨_, rfl⟩, ⟨_, rfl⟩, ⟨_, rfl⟩, ⟨_, rfl⟩, ?_, ?_⟩ <;> (unfold WriteAllowed NoTlbConflict; decide)

/-- Rewriting a mapping in its own slot is allowed there and conflicts in every other slot. -/
theorem witness_MachineCheckOnlyFromConflicts_own_slot :
    WriteAllowed .guest 1 false 0#8 (mapped (regsA launch)) ∧ ¬WriteAllowed .guest 0 false 0#8 (mapped (regsA launch)) := by
  unfold WriteAllowed NoTlbConflict
  decide

/-- The probes: no entry matches, so at most one does. -/
theorem witness_MachineCheckOnlyFromConflicts_probes :
    (∃ tr, exec .tlbgp userOff = .fault (.trap tr)) ∧ (∃ tr, exec .tlbp userOff = .fault (.trap tr)) ∧
    (∀ j, j < userOff.tlbEntries .guest → ¬Matches .guest userOff.rid userOff j) ∧
    ∀ j, j < userOff.tlbEntries userOff.cur → ¬Matches userOff.cur userOff.curGid userOff j := by
  refine ⟨⟨_, rfl⟩, ⟨_, rfl⟩, ?_, ?_⟩ <;> (unfold Matches OwnedBy; decide)

theorem witness_UndefinedMovesAreRefused :
    RootAccess launch ∧ launch.ops64Enabled = true ∧ (launch.regInfo 31 7).cls = .absent ∧ isCount 31 7 = false ∧
    isCount 9 0 = true ∧ launch.regPresent 19 7 = true ∧ (launch.regInfo 19 7).width = .w32 ∧ isCount 19 7 = false ∧
    launch.regPresent 10 0 = true ∧ (launch.regInfo 10 0).extended = false ∧ launch.regPresent 2 0 = true ∧
    (launch.regInfo 2 0).extended = true ∧ (launch.regInfo 2 0).xpaOnly = true ∧ launch.xpaEnabled = false := by
  unfold RootAccess
  decide

/-- The same pairs in root-user mode with CU0 and without 64-bit operations. -/
theorem witness_UndefinedMovesAreRefused_without_ops64 :
    RootAccess userCu0 ∧ userCu0.ops64Enabled = false ∧ (userCu0.regInfo 31 7).cls = .absent ∧
    userCu0.regPresent 10 0 = true ∧ (userCu0.regInfo 10 0).extended = false ∧ userCu0.regPresent 2 0 = true ∧
    (userCu0.regInfo 2 0).extended = true ∧ (userCu0.regInfo 2 0).xpaOnly = true ∧ userCu0.xpaEnabled = false := by
  unfold RootAccess
  decide

theorem witness_TlbInstructionsWithoutATlbAreRefused :
    RootAccess (withGuest (fun k => { k with config := 0x100#32 }) launch) ∧
    (withGuest (fun k => { k with config := 0x100#32 }) launch).guest.mt = 2 ∧
    (withRoot (fun k => { k with config := 0x180#32 }) launch).modeHasNoMeaning = false ∧
    (withRoot (fun k => { k with config := 0x180#32 }) launch).cp0Enabled = true ∧
    (withRoot (fun k => { k with config := 0x180#32 }) launch).root.mt = 3 := by
  unfold RootAccess
  decide

theorem witness_IndexBeyondTheTlbIsRefused :
    GuestTlbAccess (ftlb 0x40000000#32 8#32) ∧
    (ftlb 0x40000000#32 8#32).tlbEntries .guest ≤ (ftlb 0x40000000#32 8#32).guest.index.toNat ∧
    (ftlb 0x40000000#32 8#32).guest.mt = 4 ∧ 2 ≤ (ftlb 0x40000000#32 8#32).guest.ie ∧
    BaseTlbAccess (inGuest (ftlb 0x60000000#32 8#32)) ∧ (inGuest (ftlb 0x60000000#32 8#32)).cur = .guest ∧
    BaseTlbAccess (withRoot (fun k => { k with index := 16#32 }) launch) ∧
    (withRoot (fun k => { k with index := 16#32 }) launch).tlbEntries .root ≤ 16 := by
  unfold GuestTlbAccess BaseTlbAccess RootAccess
  decide

/-- A pair of each class; EHINV in a context that has none; the bits on either side of a 32-bit register's width. -/
theorem witness_ReadsFindTheStoredRegister :
    isCount 10 0 = false ∧ isRandom 10 0 = false ∧ (launch.regInfo 10 0).cls = .replicated ∧
    isCount 19 7 = false ∧ isRandom 19 7 = false ∧ (launch.regInfo 19 7).cls = .shared ∧
    isCount 22 0 = false ∧ isRandom 22 0 = false ∧ (launch.regInfo 22 0).cls = .reservedArchImpl ∧
    storedBit launch 10 0 10 = true ∧
    storedBit (withGuest (fun k => { k with config4 := 0x20000000#32 }) launch) 10 0 10 = false ∧
    storedBit launch 0 0 31 = true ∧ storedBit launch 0 0 32 = false := by decide

theorem witness_Dmfgc0CopiesTheWholeRegister :
    RootAccess launch ∧ launch.ops64Enabled = true ∧ (launch.regInfo 10 0).cls ≠ .absent ∧
    (launch.regInfo 10 0).width = .w64 ∧ (launch.regInfo 22 0).cls ≠ .absent ∧ launch.regPresent 22 0 = false := by
  unfold RootAccess
  decide

theorem witness_Dmtgc0AssignsTheWholeRegister :
    launch.wf = true ∧ RootAccess launch ∧ launch.ops64Enabled = true ∧ isCount 2 0 = false ∧
    (launch.regInfo 2 0).cls ≠ .absent ∧ (launch.regInfo 2 0).width = .w64 := by
  unfold RootAccess
  decide

theorem witness_Mfgc0OfEntryLoMovesRiXi :
    RootAccess launch ∧ isEntryLo 2 0 = true ∧ isEntryLo 3 0 = true ∧ (launch.regInfo 2 0).cls ≠ .absent ∧
    (launch.regInfo 3 0).cls ≠ .absent := by
  unfold RootAccess
  decide

theorem witness_Mfgc0SignExtendsTheLowHalf :
    RootAccess launch ∧ isEntryLo 10 0 = false ∧ (launch.regInfo 10 0).cls ≠ .absent ∧ isEntryLo 19 7 = false ∧
    (launch.regInfo 19 7).cls ≠ .absent := by
  unfold RootAccess
  decide

theorem witness_Mfhgc0OfEntryLoUndoesTheShift :
    RootAccess (withXpa launch) ∧ isEntryLo 3 0 = true ∧ (withXpa launch).regPresent 3 0 = true ∧
    ((withXpa launch).regInfo 3 0).extended = true ∧ (withXpa launch).xpaEnabled = true ∧
    (withXpa launch).cfg.rixiSupported = true := by
  unfold RootAccess
  decide

theorem witness_Mfhgc0OfEntryLoUndoesTheShift_without_rixi :
    RootAccess { withXpa launch with cfg := { Config.reset with rixiSupported := false } } ∧
    ({ withXpa launch with cfg := { Config.reset with rixiSupported := false } } : State).xpaEnabled = true ∧
    ({ withXpa launch with cfg := { Config.reset with rixiSupported := false } } : State).regPresent 3 0 = true := by
  unfold RootAccess
  decide

theorem witness_HighHalfMovesOfOtherRegisters :
    (extraRow launch).wf = true ∧ RootAccess (extraRow launch) ∧ isEntryLo 7 3 = false ∧
    ((extraRow launch).regInfo 7 3).cls ≠ .absent ∧ ((extraRow launch).regInfo 7 3).extended = true ∧
    ((extraRow launch).regInfo 7 3).xpaOnly = false ∧ ((extraRow launch).regInfo 22 0).cls ≠ .absent ∧
    (extraRow launch).regPresent 22 0 = false := by
  unfold RootAccess
  decide

theorem witness_Mtgc0WritesTheRegistersWidth :
    launch.wf = true ∧ RootAccess launch ∧ isEntryLo 10 0 = false ∧ isCount 10 0 = false ∧
    (launch.regInfo 10 0).width = .w64 ∧ isEntryLo 0 0 = false ∧ isCount 0 0 = false ∧
    (launch.regInfo 0 0).width = .w32 ∧ (launch.regInfo 0 0).cls ≠ .absent := by
  unfold RootAccess
  decide

theorem witness_EntryLoMovesToTheGuest :
    (withXpa launch).wf = true ∧ RootAccess (withXpa launch) ∧ isEntryLo 2 0 = true ∧ (withXpa launch).xpaEnabled = true := by
  unfold RootAccess
  decide

theorem witness_DoublewordMoveRoundTrip :
    launch.wf = true ∧ (launch.regInfo 10 0).cls = .replicated ∧ launch.writableBits 10 0 = BitVec.allOnes 64 ∧
    isCount 10 0 = false ∧ isRandom 10 0 = false ∧
    ∃ t u, exec (.dmtgc0 5 10 0) launch = .next t ∧ exec (.dmfgc0 31 10 0) t = .next u :=
  ⟨by decide, by decide, by decide, by decide, by decide, _, _, rfl, rfl⟩

theorem witness_EntryLoMoveRoundTrips :
    launch.wf = true ∧ launch.writableBits 2 0 = BitVec.allOnes 64 ∧
    ∃ t u, exec (.mtgc0 5 2 0) launch = .next t ∧ exec (.mfgc0 31 2 0) t = .next u :=
  ⟨by decide, by decide, _, _, rfl, rfl⟩

theorem witness_EntryLoMoveRoundTrips_high (n : Nat) (h : n = 37 ∨ n = 65 ∨ n = 66) :
    (withPaBits n (withXpa launch)).wf = true ∧
    (withPaBits n (withXpa launch)).writableBits 3 0 = BitVec.allOnes 64 ∧
    ∃ t u, exec (.mthgc0 5 3 0) (withPaBits n (withXpa launch)) = .next t ∧ exec (.mfhgc0 31 3 0) t = .next u := by
  rcases h with rfl | rfl | rfl <;> exact ⟨by decide, by decide, _, _, rfl, rfl⟩

/-- The range clauses of R131: a JTLB; IE = 2 with Index at the last VTLB entry, at the first FTLB entry and at the last
one; IE = 3 with Index at the last entry. -/
theorem witness_GuestInvalidation (s : State)
    (h : s ∈ [launch, ftlb 0x40000000#32 3#32, ftlb 0x40000000#32 4#32, ftlb 0x40000000#32 7#32, ftlb 0x60000000#32 7#32]) :
    GuestTlbAccess s ∧ 2 ≤ s.guest.ie ∧ RangeIndexOk .guest s := by
  simp only [List.mem_cons, List.not_mem_nil, or_false] at h
  unfold GuestTlbAccess RootAccess RangeIndexOk
  rcases h with rfl | rfl | rfl | rfl | rfl <;> decide

/-- The same for the base family, in root mode and in guest mode. -/
theorem witness_BaseInvalidation (s : State)
    (h : s ∈ [launch, inGuest (ftlb 0x40000000#32 3#32), inGuest (ftlb 0x40000000#32 4#32),
      inGuest (ftlb 0x40000000#32 7#32), inGuest (ftlb 0x60000000#32 7#32)]) :
    BaseTlbAccess s ∧ 2 ≤ (s.cp0 s.cur).ie ∧ RangeIndexOk s.cur s := by
  simp only [List.mem_cons, List.not_mem_nil, or_false] at h
  unfold BaseTlbAccess RangeIndexOk
  rcases h with rfl | rfl | rfl | rfl | rfl <;> decide

/-- A probe that misses, one with a single match in the last entry, and one with two matches. -/
theorem witness_TlbgpReportsTheMatch :
    (GuestTlbAccess (regsA launch) ∧ FtlbInPlace .guest (regsA launch) ∧
      ∀ i, i < (regsA launch).tlbEntries .guest → ¬Matches .guest (regsA launch).rid (regsA launch) i) ∧
    (GuestTlbAccess (loadedA 0#8 launch) ∧ FtlbInPlace .guest (loadedA 0#8 launch) ∧
      Matches .guest 0#8 (loadedA 0#8 launch) 3 ∧
      ∀ j, j < (loadedA 0#8 launch).tlbEntries .guest → Matches .guest 0#8 (loadedA 0#8 launch) j → j = 3) ∧
    FtlbInPlace .guest { regsA launch with guestTlb := [entA 0#8, invalid, invalid, entA 0#8] } ∧
    Matches .guest 0#8 { regsA launch with guestTlb := [entA 0#8, invalid, invalid, entA 0#8] } 0 ∧
    Matches .guest 0#8 { regsA launch with guestTlb := [entA 0#8, invalid, invalid, entA 0#8] } 3 := by
  refine ⟨⟨?_, ?_, ?_⟩, ⟨?_, ?_, ?_, ?_⟩, ?_, ?_, ?_⟩
  all_goals
    first
    | (unfold GuestTlbAccess RootAccess; decide)
    | (unfold FtlbInPlace; decide)
    | (unfold Matches OwnedBy; decide)

/-- The same three for TLBP, in guest mode with GuestID and in root mode. -/
theorem witness_TlbpReportsTheMatch :
    (BaseTlbAccess (inGuest (withIds 0#8 2#8 (loadedA 2#8 launch))) ∧
      Matches .guest 2#8 (inGuest (withIds 0#8 2#8 (loadedA 2#8 launch))) 3) ∧
    (BaseTlbAccess (regsB launch) ∧
      ∀ i, i < (regsB launch).tlbEntries .root → ¬Matches .root 2#8 (regsB launch) i) ∧
    Matches .root 2#8 { regsB launch with rootTlb := List.replicate 16 entB } 0 ∧
    Matches .root 2#8 { regsB launch with rootTlb := List.replicate 16 entB } 15 := by
  unfold BaseTlbAccess Matches OwnedBy
  decide

theorem witness_ProbesReportOnlyMatchingEntries :
    (∃ t, exec .tlbgp (loadedA 0#8 launch) = .next t ∧ t.guest.index.getLsbD 31 = false) ∧
    ∃ t, exec .tlbp { regsB launch with rootTlb := (List.replicate 16 invalid).set 15 entB } = .next t ∧
      t.root.index.getLsbD 31 = false := ⟨⟨_, rfl, by decide⟩, _, rfl, by decide⟩

/-- Valid and invalid entries at the last index, with GuestID and without. -/
theorem witness_TlbgrReads :
    (GuestTlbAccess (loadedA 0#8 launch) ∧ (loadedA 0#8 launch).guest.index.toNat = 3 ∧
      ((loadedA 0#8 launch).entry .guest 3).hardwareInvalid = false ∧ (loadedA 0#8 launch).tlbEntries .guest = 4) ∧
    (GuestTlbAccess (withIds 7#8 0#8 (regsA launch)) ∧ (withIds 7#8 0#8 (regsA launch)).g1 = true ∧
      2 ≤ (withIds 7#8 0#8 (regsA launch)).guest.ie ∧
      ((withIds 7#8 0#8 (regsA launch)).entry .guest 3).hardwareInvalid = true) := by
  unfold GuestTlbAccess RootAccess
  decide

theorem witness_TlbrInRootModeLoadsTheEntry :
    BaseTlbAccess (regsB launch) ∧ (regsB launch).isRootMode = true ∧
    (regsB launch).root.index.toNat < (regsB launch).tlbEntries .root ∧
    ((regsB launch).entry .root 7).hardwareInvalid = true ∧ 2 ≤ (regsB launch).root.ie ∧
    (({ regsB launch with rootTlb := List.replicate 16 entB } : State).entry .root 7).hardwareInvalid = false := by
  unfold BaseTlbAccess
  decide

/-- The guest's own entry, another guest's, and an invalid one; another guest's with `Config4.IE` below 2. -/
theorem witness_TlbrInGuestModeHidesOtherGuests :
    BaseTlbAccess (inGuest (withIds 5#8 2#8 (loadedA 2#8 launch))) ∧
    (inGuest (withIds 5#8 2#8 (loadedA 2#8 launch))).isGuestMode = true ∧
    OwnedBy 2#8 (inGuest (withIds 5#8 2#8 (loadedA 2#8 launch))) (entA 2#8) ∧
    (inGuest (withIds 5#8 2#8 (loadedA 2#8 launch))).entry .guest 3 = entA 2#8 ∧
    ¬OwnedBy 2#8 (inGuest (withIds 5#8 2#8 (loadedA 3#8 launch))) (entA 3#8) ∧
    ((inGuest (withIds 5#8 2#8 (regsA launch))).entry .guest 3).hardwareInvalid = true ∧
    BaseTlbAccess (inGuest (withIds 5#8 2#8 (noInvalid (loadedA 3#8 launch)))) ∧
    (inGuest (withIds 5#8 2#8 (noInvalid (loadedA 3#8 launch)))).guest.ie < 2 ∧
    ¬OwnedBy 2#8 (inGuest (withIds 5#8 2#8 (noInvalid (loadedA 3#8 launch)))) (entA 3#8) := by
  unfold BaseTlbAccess OwnedBy
  decide

/-- Indexed and random writes to the guest TLB: with nothing valid to conflict with, and with `EHINV = 1` over any TLB. -/
theorem witness_GuestTlbWrites :
    GuestTlbAccess (regsA launch) ∧ (regsA launch).guest.index.toNat < (regsA launch).tlbEntries .guest ∧
    0 < (regsA launch).vtlbEntries .guest ∧
    (∀ i, i < (regsA launch).tlbEntries .guest → WriteAllowed .guest i false 0#8 (regsA launch)) ∧
    WriteAllowed .guest 3 false 0#8 (withGuest (fun k => { k with entryHi := 0x400#64 }) (loadedA 0#8 launch)) := by
  refine ⟨?_, ?_, ?_, ?_, ?_⟩
  all_goals first | decide | (unfold GuestTlbAccess RootAccess; decide) | (unfold WriteAllowed NoTlbConflict; decide)

/-- What a random write addresses is admitted, so a premise that holds of every admitted entry holds of that one. -/
theorem drawn_allowed {c : Ctx} {g : Bool} {gid : BitVec 8} {s : State} (h0 : 0 < s.vtlbEntries c)
    (h : ∀ i, i < s.randomBound c → WriteAllowed c i g gid s) : WriteAllowed c (s.randomIndex c) g gid s :=
  h _ (randomIndex_lt s c (randomBound_ne_zero h0))

/-- TLBGWR: over a JTLB; with `MT = 4`, a non-empty FTLB and a page size that is not its own. -/
theorem witness_TlbgwrWritesOneAdmittedEntry (s : State) (h : s ∈ [regsA launch, regsFtlb 3#16]) :
    GuestTlbAccess s ∧ 0 < s.vtlbEntries .guest ∧ s.guest.ehinv = false ∧
    WriteAllowed .guest (s.randomIndex .guest) false 0#8 s := by
  simp only [List.mem_cons, List.not_mem_nil, or_false] at h
  unfold GuestTlbAccess RootAccess
  rcases h with rfl | rfl <;>
    exact ⟨by decide, by decide, by decide,
      drawn_allowed (by decide) (by unfold WriteAllowed NoTlbConflict; decide)⟩

/-- The same for TLBWR in guest mode; in root mode with GuestID; and an invalidation with the FTLB's own page size. -/
theorem witness_TlbwrWritesOneAdmittedEntry (s : State)
    (h : s ∈ [inGuest (regsFtlb 3#16), regsB launch,
      inGuest (withGuest (fun k => { k with entryHi := 0x400#64 }) (regsFtlb 0#16))]) :
    BaseTlbAccess s ∧ 0 < s.vtlbEntries s.cur ∧ WriteAllowed s.cur (s.randomIndex s.cur) (baseG s) s.curGid s := by
  simp only [List.mem_cons, List.not_mem_nil, or_false] at h
  unfold BaseTlbAccess
  rcases h with rfl | rfl | rfl <;>
    exact ⟨by decide, by decide, drawn_allowed (by decide) (by unfold WriteAllowed NoTlbConflict; decide)⟩

/-- With the FTLB's own page size and `EHINV = 0`, where the VPN2 written is consistent with the entry drawn. -/
theorem witness_TlbgwrWritesOneAdmittedEntry_ftlb_page_size
    (h : Config.ftlbVpnConsistent .guest 0x1234#49 ((regsFtlb 0#16).randomIndex .guest) = true) :
    GuestTlbAccess (regsFtlb 0#16) ∧ (regsFtlb 0#16).randomBound .guest = 8 ∧ (regsFtlb 0#16).guest.ehinv = false ∧
    WriteAllowed .guest ((regsFtlb 0#16).randomIndex .guest) false 0#8 (regsFtlb 0#16) := by
  refine ⟨by unfold GuestTlbAccess RootAccess; decide, by decide, by decide, .inr ⟨?_, fun _ => ⟨by decide, h⟩⟩⟩
  have hn : ∀ j, j < (regsFtlb 0#16).tlbEntries .guest →
      (regsFtlb 0#16).notInvalid .guest ((regsFtlb 0#16).entry .guest j) = false := by decide
  intro j hj _ hv
  rw [hn j hj] at hv
  cases hv

/-- The same for the base family: in root mode with `G` forced to 1, and in guest mode. -/
theorem witness_BaseTlbWrites :
    BaseTlbAccess (regsB launch) ∧ (regsB launch).root.index.toNat < (regsB launch).tlbEntries .root ∧
    0 < (regsB launch).vtlbEntries .root ∧ baseG (regsB launch) = true ∧
    (∀ i, i < (regsB launch).tlbEntries .root → WriteAllowed .root i true 2#8 (regsB launch)) ∧
    BaseTlbAccess (inGuest (withIds 5#8 2#8 (regsA launch))) ∧
    baseG (inGuest (withIds 5#8 2#8 (regsA launch))) = false ∧
    ∀ i, i < (inGuest (withIds 5#8 2#8 (regsA launch))).tlbEntries .guest →
      WriteAllowed .guest i false 2#8 (inGuest (withIds 5#8 2#8 (regsA launch))) := by
  refine ⟨?_, ?_, ?_, ?_, ?_, ?_, ?_, ?_⟩
  all_goals first | decide | (unfold BaseTlbAccess; decide) | (unfold WriteAllowed NoTlbConflict; decide)

/-- Writes over TLBs whose entries all conflict with them: TLBGWI and TLBGWR, TLBWI and TLBWR in root and in guest mode. -/
theorem witness_ConflictingWriteHasOneOfThreeOutcomes :
    GuestTlbAccess (conflicting (regsA launch)) ∧
    (conflicting (regsA launch)).guest.index.toNat < (conflicting (regsA launch)).tlbEntries .guest ∧
    0 < (conflicting (regsA launch)).vtlbEntries .guest ∧
    writeConflict .guest 3 false 0#8 (conflicting (regsA launch)) = true ∧
    BaseTlbAccess (conflicting (regsB launch)) ∧
    (conflicting (regsB launch)).root.index.toNat < (conflicting (regsB launch)).tlbEntries .root ∧
    0 < (conflicting (regsB launch)).vtlbEntries .root ∧
    writeConflict .root 7 true 2#8 (conflicting (regsB launch)) = true ∧
    BaseTlbAccess (inGuest (conflicting (regsA launch))) ∧ (inGuest (conflicting (regsA launch))).cur = .guest ∧
    writeConflict .guest 3 false 0#8 (inGuest (conflicting (regsA launch))) = true := by
  unfold GuestTlbAccess BaseTlbAccess RootAccess
  decide

theorem witness_WrittenGuestEntryReadsBack :
    (regsA launch).wf = true ∧ (regsA launch).guest.ehinv = false ∧
    WriteAllowed .guest 3 ((regsA launch).gAnd .guest) (regsA launch).rid (regsA launch) ∧
    ∃ t u, exec .tlbgwi (regsA launch) = .next t ∧ exec .tlbgr t = .next u := by
  refine ⟨by decide, by decide, ?_, _, _, rfl, rfl⟩
  unfold WriteAllowed NoTlbConflict
  decide

theorem witness_FlushedGuestTlbHoldsNoMatch :
    (loadedA 0#8 launch).wf = true ∧ (loadedA 0#8 launch).guest.mt = 1 ∧ (loadedA 0#8 launch).g1 = false ∧
    ∃ t u, exec .tlbginvf (loadedA 0#8 launch) = .next t ∧ exec .tlbgp t = .next u :=
  ⟨by decide, by decide, by decide, _, _, rfl, rfl⟩

/-- What `GuestTlbFamilyMirrorsTheBaseFamily` asks of two states. -/
def mirrored (s u : State) : Prop :=
  RootAccess s ∧ u.isGuestMode = true ∧ u.modeHasNoMeaning = false ∧ u.cp0Enabled = true ∧ s.guest = u.guest ∧
    s.guestTlb = u.guestTlb ∧ s.cfg = u.cfg ∧ s.draws = u.draws ∧ s.g1 = u.g1 ∧ (s.g1 = true → s.rid = u.id)

/-- With GuestID: root mode with `RID = 2` beside guest mode with `ID = 2`, over the guest's own entry. -/
theorem witness_GuestTlbFamilyMirrorsTheBaseFamily :
    mirrored (withIds 2#8 0#8 (loadedA 2#8 launch)) (inGuest (withIds 0#8 2#8 (loadedA 2#8 launch))) ∧
    FtlbInPlace .guest (withIds 2#8 0#8 (loadedA 2#8 launch)) ∧
    ((withIds 2#8 0#8 (loadedA 2#8 launch)).entry .guest 3).guestId = 2#8 ∧
    (∃ t, exec .tlbgr (withIds 2#8 0#8 (loadedA 2#8 launch)) = .next t) ∧
    ∃ t, exec .tlbr (inGuest (withIds 0#8 2#8 (loadedA 2#8 launch))) = .next t := by
  unfold mirrored RootAccess FtlbInPlace
  exact ⟨by decide, by decide, by decide, ⟨_, rfl⟩, _, rfl⟩

/-- Without GuestID, over an entry marked invalid. -/
theorem witness_GuestTlbFamilyMirrorsTheBaseFamily_without_guestId :
    mirrored (regsA launch) (inGuest (regsA launch)) ∧ (regsA launch).g1 = false ∧ 2 ≤ (regsA launch).guest.ie ∧
    ((regsA launch).entry .guest 3).hardwareInvalid = true ∧ (∃ t, exec .tlbgr (regsA launch) = .next t) ∧
    ∃ t, exec .tlbr (inGuest (regsA launch)) = .next t := by
  unfold mirrored RootAccess
  exact ⟨by decide, by decide, by decide, by decide, ⟨_, rfl⟩, _, rfl⟩

/-- With GuestID, over another guest's entry, with the invalid bit and without. -/
theorem witness_GuestTlbFamilyMirrorsTheBaseFamily_other_guest (f : State → State) (h : f ∈ [id, noInvalid]) :
    mirrored (withIds 2#8 0#8 (f (loadedA 3#8 launch))) (inGuest (withIds 0#8 2#8 (f (loadedA 3#8 launch)))) ∧
    (inGuest (withIds 0#8 2#8 (f (loadedA 3#8 launch)))).g1 = true ∧
    ((inGuest (withIds 0#8 2#8 (f (loadedA 3#8 launch)))).entry .guest 3).guestId ≠ 2#8 ∧
    ∃ t, exec .tlbr (inGuest (withIds 0#8 2#8 (f (loadedA 3#8 launch)))) = .next t := by
  simp only [List.mem_cons, List.not_mem_nil, or_false] at h
  unfold mirrored RootAccess
  rcases h with rfl | rfl <;> exact ⟨by decide, by decide, by decide, _, rfl⟩

theorem witness_InvalidationIgnoresWired :
    (∃ t, exec .tlbginv launch = .next t) ∧ ∃ t, exec .tlbginvf launch = .next t := ⟨⟨_, rfl⟩, _, rfl⟩

end Sys2Proof.Tests
end

section
/-! O59: the guest invalidations read no bit of `Guest.Wired` (R37). `State.withGuestWired` names the change of the
register; the guards and the range of R131 answer the same after it, and the marking commutes with it. -/

namespace Sys2Proof.Machine

/-! ### A completed guest invalidation (R133, R134) -/

/-- What TLBGINV and TLBGINVF share: the guards, the range of R131, then the marking of the entries a test accepts. -/
def guestInvalidation (test : TlbEntry → Bool) (s : State) : Host.Outcome State Fault Refusal :=
  finish <|
    match tlbgGuards true s with
    | .error e => .error e
    | .ok _ =>
      match invRange .guest s with
      | .error e => .error e
      | .ok range => .ok (invalidateWhere .guest range test s)

theorem exec_tlbginv (s : State) : exec .tlbginv s = guestInvalidation (asidTest .guest s.rid s) s := rfl

theorem exec_tlbginvf (s : State) : exec .tlbginvf s = guestInvalidation (s.gidOk s.rid) s := rfl

/-- A guest invalidation completes exactly when its guards pass and there is a range, and then marks that range. -/
theorem guestInvalidation_next {test : TlbEntry → Bool} {s t : State} :
    guestInvalidation test s = .next t ↔
      tlbgGuards true s = .ok () ∧
        ∃ range, invRange .guest s = .ok range ∧ t = (invalidateWhere .guest range test s).advance := by
  constructor
  · intro h
    obtain ⟨hg, u, hu, rfl⟩ := guarded_next h
    refine ⟨hg, ?_⟩
    split at hu
    · cases hu
    · next range hr => exact ⟨range, hr, congrArg State.advance (Except.ok.inj hu).symm⟩
  · rintro ⟨hg, range, hr, rfl⟩
    simp only [guestInvalidation, hg, hr, finish]

/-! ### The state with another Guest.Wired -/

/-- `s` with another value in `Guest.Wired` (R37). -/
def State.withGuestWired (s : State) (v : Half) : State := { s with guest := { s.guest with wired := v } }

section
variable (s : State) (v : Half) (c : Ctx)

@[simp] theorem withGuestWired_cur : (s.withGuestWired v).cur = s.cur := rfl
@[simp] theorem withGuestWired_dm : (s.withGuestWired v).dm = s.dm := rfl
@[simp] theorem withGuestWired_pc : (s.withGuestWired v).pc = s.pc := rfl
@[simp] theorem withGuestWired_cfg : (s.withGuestWired v).cfg = s.cfg := rfl
@[simp] theorem withGuestWired_rid : (s.withGuestWired v).rid = s.rid := rfl
@[simp] theorem withGuestWired_gidOk : (s.withGuestWired v).gidOk = s.gidOk := rfl
@[simp] theorem withGuestWired_hasTlb : (s.withGuestWired v).guest.hasTlb = s.guest.hasTlb := rfl
@[simp] theorem withGuestWired_hasInvalid : (s.withGuestWired v).guest.hasInvalid = s.guest.hasInvalid := rfl

/-! ### What the instructions read is not Wired -/

@[simp] theorem withGuestWired_cu0 : ((s.withGuestWired v).cp0 c).cu0 = (s.cp0 c).cu0 := by cases c <;> rfl
@[simp] theorem withGuestWired_vz : ((s.withGuestWired v).cp0 c).vz = (s.cp0 c).vz := by cases c <;> rfl
@[simp] theorem withGuestWired_entryHi : ((s.withGuestWired v).cp0 c).entryHi = (s.cp0 c).entryHi := by
  cases c <;> rfl
@[simp] theorem withGuestWired_kernelMode : ((s.withGuestWired v).cp0 c).kernelMode = (s.cp0 c).kernelMode := by
  cases c <;> rfl
@[simp] theorem withGuestWired_cp0_modeHasNoMeaning :
    ((s.withGuestWired v).cp0 c).modeHasNoMeaning = (s.cp0 c).modeHasNoMeaning := by
  cases c <;> rfl

@[simp] theorem withGuestWired_modeHasNoMeaning : (s.withGuestWired v).modeHasNoMeaning = s.modeHasNoMeaning := by
  simp [State.modeHasNoMeaning]

@[simp] theorem withGuestWired_cp0Enabled : (s.withGuestWired v).cp0Enabled = s.cp0Enabled := by
  simp [State.cp0Enabled]

/-- The guards of the guest TLB instructions answer the same, errors included (R130). -/
@[simp] theorem tlbgGuards_withGuestWired (inv : Bool) : tlbgGuards inv (s.withGuestWired v) = tlbgGuards inv s := by
  simp [tlbgGuards, raise]

/-- The range of R131 is the same: it is not bounded below by Wired. -/
@[simp] theorem invRange_withGuestWired : invRange c (s.withGuestWired v) = invRange c s := by
  cases c <;> rfl

@[simp] theorem asidTest_withGuestWired (gid : BitVec 8) :
    asidTest c gid (s.withGuestWired v) = asidTest c gid s := by
  funext e
  simp [asidTest]

/-- Marking entries and ending the instruction commute with the change of Wired. -/
theorem invalidateWhere_withGuestWired (range : List Nat) (test : TlbEntry → Bool) :
    (invalidateWhere .guest range test (s.withGuestWired v)).advance =
      ((invalidateWhere .guest range test s).advance).withGuestWired v := rfl

end

/-- A completed guest invalidation completes in the same way with any other `Guest.Wired`. -/
theorem guestInvalidation_withGuestWired {test : TlbEntry → Bool} {s t : State} (v : Half)
    (h : guestInvalidation test s = .next t) :
    guestInvalidation test (s.withGuestWired v) = .next (t.withGuestWired v) := by
  obtain ⟨hg, range, hr, rfl⟩ := guestInvalidation_next.1 h
  refine guestInvalidation_next.2 ⟨?_, range, ?_, ?_⟩
  · rw [tlbgGuards_withGuestWired, hg]
  · rw [invRange_withGuestWired, hr]
  · rw [invalidateWhere_withGuestWired]

/-- TLBGINV with another `Guest.Wired`: its test reads none of it either. -/
theorem exec_tlbginv_withGuestWired {s t : State} (v : Half) (h : exec .tlbginv s = .next t) :
    exec .tlbginv (s.withGuestWired v) = .next (t.withGuestWired v) := by
  rw [exec_tlbginv] at h ⊢
  rw [withGuestWired_rid, asidTest_withGuestWired]
  exact guestInvalidation_withGuestWired v h

/-- TLBGINVF with another `Guest.Wired`: its test reads none of it either. -/
theorem exec_tlbginvf_withGuestWired {s t : State} (v : Half) (h : exec .tlbginvf s = .next t) :
    exec .tlbginvf (s.withGuestWired v) = .next (t.withGuestWired v) := by
  rw [exec_tlbginvf] at h ⊢
  rw [withGuestWired_rid, withGuestWired_gidOk]
  exact guestInvalidation_withGuestWired v h

/-- Settles O59: the guards, the range and the tests of both instructions read no bit of `Guest.Wired`, and the marking
leaves it alone. -/
theorem invalidationIgnoresWired : Obligations.InvalidationIgnoresWired := fun _ _ v =>
  ⟨exec_tlbginv_withGuestWired v, exec_tlbginvf_withGuestWired v⟩

end Sys2Proof.Machine
end

section
/-! O4: each format `CO` row is decoded from exactly one word (R75). The decoder's two formats are inverted once: a word
that decodes is the word of what it decodes to, and the decoder reads a format `CO` word by its function code. -/

namespace Sys2Proof

/-! ### A word and its fields (R71, R72) -/

/-- The fixed bits of format `GM` and the four free fields give the whole word. -/
theorem encodeGm_wordFields {w : Half} (hop : wordField w 26 6 = 0b010000) (hfmt : wordField w 21 5 = 0b00011)
    (hzero : wordField w 3 5 = 0) :
    encodeGm (wordField w 8 3) (wordField w 16 5) (wordField w 11 5) (wordField w 0 3) = w := by
  simp only [wordField] at hop hfmt hzero
  simp only [encodeGm, wordField]
  apply BitVec.eq_of_toNat_eq
  rw [BitVec.toNat_ofNat]
  omega

/-- The fixed bits of format `CO` and the function code give the whole word. -/
theorem encodeCo_wordField {w : Half} (hop : wordField w 26 6 = 0b010000) (hco : wordField w 25 1 = 1)
    (hzero : wordField w 6 19 = 0) : encodeCo (wordField w 0 6) = w := by
  simp only [wordField] at hop hco hzero
  simp only [encodeCo, wordField]
  apply BitVec.eq_of_toNat_eq
  rw [BitVec.toNat_ofNat]
  omega

/-! ### The rows of each format (R74, R75) -/

/-- A row of format `GM` has the `sub` that selects it. -/
theorem encode_of_decodeGm {sub rt rd sel : Nat} {i : Instr} (h : decodeGm sub rt rd sel = some i) :
    encode i = encodeGm sub rt rd sel := by
  unfold decodeGm at h
  split at h <;> cases h <;> rfl

/-- A row of format `CO` has the function code that selects it. -/
theorem encode_of_decodeCo {f : Nat} {i : Instr} (h : decodeCo f = some i) : encode i = encodeCo f := by
  unfold decodeCo at h
  split at h <;> cases h <;> rfl

/-- The function codes of R75 are 6-bit numbers. -/
theorem lt_of_decodeCo {f : Nat} {i : Instr} (h : decodeCo f = some i) : f < 2 ^ 6 := by
  unfold decodeCo at h
  split at h <;> cases h <;> decide

/-! ### The decoder -/

theorem decodeWord_eq_ok_iff {w : Half} {i : Instr} : decodeWord w = .ok i ↔ decodeRow w = some i := by
  unfold decodeWord
  cases decodeRow w <;> simp

/-- The word of what a word decodes to is that word: the formats leave no bit unread. -/
theorem encode_of_decodeRow {w : Half} {i : Instr} (h : decodeRow w = some i) : encode i = w := by
  unfold decodeRow at h
  split at h
  next hop =>
    split at h
    next hgm =>
      obtain ⟨hfmt, hzero⟩ := hgm
      rw [encode_of_decodeGm h, encodeGm_wordFields hop hfmt hzero]
    next =>
      split at h
      next hrow =>
        obtain ⟨hco, hzero⟩ := hrow
        rw [encode_of_decodeCo h, encodeCo_wordField hop hco hzero]
      next => cases h
  next => cases h

/-- The decoder reads a format `CO` word by its function code: bit 25 keeps it apart from format `GM` (R76). -/
theorem decodeRow_encodeCo {f : Nat} (hf : f < 2 ^ 6) : decodeRow (encodeCo f) = decodeCo f := by
  have hw : (encodeCo f).toNat = 0x42000000 + f := by
    rw [encodeCo, BitVec.toNat_ofNat]
    omega
  have hop : wordField (encodeCo f) 26 6 = 0b010000 := by rw [wordField, hw]; omega
  have hgm : wordField (encodeCo f) 21 5 ≠ 0b00011 := by rw [wordField, hw]; omega
  have hco : wordField (encodeCo f) 25 1 = 1 := by rw [wordField, hw]; omega
  have hzero : wordField (encodeCo f) 6 19 = 0 := by rw [wordField, hw]; omega
  have hfunct : wordField (encodeCo f) 0 6 = f := by rw [wordField, hw]; omega
  simp [decodeRow, hop, hgm, hco, hzero, hfunct]

/-- R75: a format `CO` row is decoded from its own word and from no other. -/
theorem decodeWord_eq_ok_iff_of_decodeCo {f : Nat} {i : Instr} (h : decodeCo f = some i) (w : Half) :
    decodeWord w = .ok i ↔ w = encodeCo f := by
  rw [decodeWord_eq_ok_iff]
  constructor
  · intro hw
    rw [← encode_of_decodeRow hw, encode_of_decodeCo h]
  · rintro rfl
    rw [decodeRow_encodeCo (lt_of_decodeCo h), h]

/-- Settles O4: each row's function code, put into the one word its fixed bits leave. -/
theorem tlbRowsAreSingleWords : Obligations.TlbRowsAreSingleWords := fun w =>
  ⟨decodeWord_eq_ok_iff_of_decodeCo (f := 1) rfl w, decodeWord_eq_ok_iff_of_decodeCo (f := 2) rfl w,
   decodeWord_eq_ok_iff_of_decodeCo (f := 3) rfl w, decodeWord_eq_ok_iff_of_decodeCo (f := 4) rfl w,
   decodeWord_eq_ok_iff_of_decodeCo (f := 6) rfl w, decodeWord_eq_ok_iff_of_decodeCo (f := 8) rfl w,
   decodeWord_eq_ok_iff_of_decodeCo (f := 9) rfl w, decodeWord_eq_ok_iff_of_decodeCo (f := 10) rfl w,
   decodeWord_eq_ok_iff_of_decodeCo (f := 11) rfl w, decodeWord_eq_ok_iff_of_decodeCo (f := 12) rfl w,
   decodeWord_eq_ok_iff_of_decodeCo (f := 14) rfl w, decodeWord_eq_ok_iff_of_decodeCo (f := 16) rfl w⟩

end Sys2Proof
end

section
/-! O11: the mode is a function of four root bits (R202), which stand in `GuestCtl0`, `Debug` and `Root.Status`. No
instruction writes any of the three: the shared operations are shown to keep them once, and each arm of `exec` is put
together from these. -/

namespace Sys2Proof.Machine

/-! ### The registers that hold the four bits (R202) -/

/-- `u` holds the registers of R202's four bits as `s` does. -/
structure KeepsModeRegs (s u : State) : Prop where
  guestCtl0 : u.guestCtl0 = s.guestCtl0
  debugReg : u.debugReg = s.debugReg
  rootStatus : u.root.status = s.root.status

namespace KeepsModeRegs
variable {s u : State}

theorem gm (h : KeepsModeRegs s u) : u.gm = s.gm := by simp [State.gm, h.guestCtl0]

theorem dm (h : KeepsModeRegs s u) : u.dm = s.dm := by simp [State.dm, h.debugReg]

theorem rootErl (h : KeepsModeRegs s u) : u.root.erl = s.root.erl := by simp [Cp0.erl, h.rootStatus]

theorem rootExl (h : KeepsModeRegs s u) : u.root.exl = s.root.exl := by simp [Cp0.exl, h.rootStatus]

theorem isGuestMode (h : KeepsModeRegs s u) : u.isGuestMode = s.isGuestMode :=
  isGuestMode_congr h.guestCtl0 h.debugReg h.rootStatus

theorem isRootMode (h : KeepsModeRegs s u) : u.isRootMode = s.isRootMode := by
  rw [isRootMode_eq, isRootMode_eq, h.isGuestMode]

/-! ### State operations that keep them -/

theorem refl (s : State) : KeepsModeRegs s s := ⟨rfl, rfl, rfl⟩

/-- A change of one context that leaves its Status, as the probes and the TLB reads make it. -/
theorem setCp0 {c : Ctx} {k : Cp0} (h : KeepsModeRegs s u) (hk : k.status = (u.cp0 c).status) :
    KeepsModeRegs s (u.setCp0 c k) := by
  refine ⟨by simp [h.guestCtl0], by simp [h.debugReg], ?_⟩
  cases c with
  | root => exact hk.trans h.rootStatus
  | guest => exact h.rootStatus

theorem setTlb {c : Ctx} {t : List TlbEntry} (h : KeepsModeRegs s u) : KeepsModeRegs s (u.setTlb c t) :=
  ⟨by simp [h.guestCtl0], by simp [h.debugReg], by simp [h.rootStatus]⟩

theorem setGpr {r : Nat} {x : Word} (h : KeepsModeRegs s u) : KeepsModeRegs s (u.setGpr r x) :=
  ⟨by simp [h.guestCtl0], by simp [h.debugReg], by simp [h.rootStatus]⟩

theorem updateRid {v : BitVec 8} (h : KeepsModeRegs s u) : KeepsModeRegs s (u.updateRid v) :=
  ⟨by simp [h.guestCtl0], by simp [h.debugReg], by simp [h.rootStatus]⟩

theorem updateRidInRoot {v : BitVec 8} (h : KeepsModeRegs s u) : KeepsModeRegs s (u.updateRidInRoot v) := by
  unfold State.updateRidInRoot
  split
  · exact h.updateRid
  · exact h

theorem advance (h : KeepsModeRegs s u) : KeepsModeRegs s u.advance := ⟨h.guestCtl0, h.debugReg, h.rootStatus⟩

theorem loadEntry (c : Ctx) (e : TlbEntry) (s : State) : KeepsModeRegs s (loadEntry c e s) := (refl s).setCp0 rfl

theorem loadInvalid (c : Ctx) (s : State) : KeepsModeRegs s (loadInvalid c s) := (refl s).setCp0 rfl

/-- What a read of the guest's Count or Random leaves behind stands in the guest context. -/
theorem observe (s : State) (rd sel : Nat) : KeepsModeRegs s (s.observe rd sel) := by
  rcases observe_cases s rd sel with h | ⟨_, h⟩ <;> rw [h] <;> exact ⟨rfl, rfl, rfl⟩

end KeepsModeRegs

/-! ### Effects of instructions (R207: a guard, a refusal, or the operation itself) -/

/-- Where the effect `r` completes, it has kept the registers of the four bits as they are in `s`. -/
def EffectKeepsModeRegs (s : State) (r : Run State) : Prop := ∀ u, r = .ok u → KeepsModeRegs s u

namespace EffectKeepsModeRegs
variable {s t : State}

theorem ok {u : State} (h : KeepsModeRegs s u) : EffectKeepsModeRegs s (.ok u) := by
  rintro _ ⟨⟩
  exact h

theorem error {e : Stop} : EffectKeepsModeRegs s (.error e) := by rintro _ ⟨⟩

theorem ite {p : Prop} [Decidable p] {a b : Run State} (ha : EffectKeepsModeRegs s a) (hb : EffectKeepsModeRegs s b) :
    EffectKeepsModeRegs s (if p then a else b) := by
  split
  · exact ha
  · exact hb

/-- An effect behind guards, which can only stop it. -/
theorem guarded {g : Run Unit} {r : Run State} (hr : EffectKeepsModeRegs s r) :
    EffectKeepsModeRegs s (match g with | .error e => .error e | .ok _ => r) := by
  match g with
  | .error _ => exact error
  | .ok _ => exact hr

/-- An instruction keeps what its effect keeps: its end only moves pc and the draw counter. -/
theorem next {r : Run State} (h : finish r = .next t) (hr : EffectKeepsModeRegs s r) : KeepsModeRegs s t := by
  obtain ⟨u, hu, rfl⟩ := finish_next.1 h
  exact (hr u hu).advance

/-! ### The effects the instructions share -/

theorem moveFrom {rt rd sel : Nat} {f : Word → Word} : EffectKeepsModeRegs s (moveFrom rt rd sel f s) := by
  intro u hu
  obtain ⟨_, rfl⟩ := moveFrom_next hu
  exact (KeepsModeRegs.observe s rd sel).setGpr

theorem guestWrite {rd sel : Nat} {new m : Word} : EffectKeepsModeRegs s (s.guestWrite rd sel new m) := by
  intro u hu
  rw [guestWrite_frame hu]
  exact ⟨rfl, rfl, rfl⟩

theorem probe {c : Ctx} {found : List Nat} : EffectKeepsModeRegs s (probe c found s) := by
  intro u hu
  obtain ⟨v, _, rfl⟩ := probe_ok hu
  rw [setIndex_eq]
  exact (KeepsModeRegs.refl s).setCp0 rfl

theorem checkedWrite {c : Ctx} {i : Nat} {g : Bool} {gid : BitVec 8} :
    EffectKeepsModeRegs s (checkedWrite c i g gid s) := by
  intro u hu
  rw [checkedWrite_frame hu]
  exact (KeepsModeRegs.refl s).setTlb

theorem indexedWrite {c : Ctx} {g : Bool} {gid : BitVec 8} : EffectKeepsModeRegs s (indexedWrite c g gid s) := by
  intro u hu
  obtain ⟨_, hw⟩ := indexedWrite_ok hu
  exact checkedWrite u hw

theorem randomWrite {c : Ctx} {g : Bool} {gid : BitVec 8} : EffectKeepsModeRegs s (randomWrite c g gid s) := by
  intro u hu
  obtain ⟨_, w, hw, rfl⟩ := randomWrite_ok hu
  exact (checkedWrite w hw).setCp0 rfl

/-- What the four invalidations do behind their guards: the range of R131, then the marking of entries in it. -/
theorem invalidation {c : Ctx} {test : TlbEntry → Bool} :
    EffectKeepsModeRegs s
      (match invRange c s with
        | .error e => .error e
        | .ok range => .ok (invalidateWhere c range test s)) := by
  cases invRange c s with
  | error e => exact error
  | ok range => exact ok (KeepsModeRegs.refl s).setTlb

end EffectKeepsModeRegs

/-! ### Every instruction -/

/-- R202: no instruction writes `GuestCtl0`, `Debug` or `Root.Status`. -/
theorem exec_keepsModeRegs {i : Instr} {s t : State} (h : exec i s = .next t) : KeepsModeRegs s t := by
  cases i with
  | dmfgc0 rt rd sel => exact EffectKeepsModeRegs.next h <| .guarded <| .ite .error .moveFrom
  | dmtgc0 rt rd sel => exact EffectKeepsModeRegs.next h <| .guarded <| .ite .error (.ite .error .guestWrite)
  | mfgc0 rt rd sel => exact EffectKeepsModeRegs.next h <| .guarded <| .ite .moveFrom .moveFrom
  | mfhgc0 rt rd sel => exact EffectKeepsModeRegs.next h <| .guarded <| .guarded <| .ite .moveFrom .moveFrom
  | mtgc0 rt rd sel => exact EffectKeepsModeRegs.next h <| .guarded <| .ite .error (.ite .guestWrite .guestWrite)
  | mthgc0 rt rd sel => exact EffectKeepsModeRegs.next h <| .guarded <| .guarded <| .ite .guestWrite .guestWrite
  | tlbginv => exact EffectKeepsModeRegs.next h <| .guarded .invalidation
  | tlbginvf => exact EffectKeepsModeRegs.next h <| .guarded .invalidation
  | tlbgp => exact EffectKeepsModeRegs.next h <| .guarded .probe
  | tlbgr =>
    exact EffectKeepsModeRegs.next h <| .guarded <| .ite .error (.ite (.ok (KeepsModeRegs.loadInvalid ..).updateRid)
      (.ok (KeepsModeRegs.loadEntry ..).updateRid))
  | tlbgwi => exact EffectKeepsModeRegs.next h <| .guarded .indexedWrite
  | tlbgwr => exact EffectKeepsModeRegs.next h <| .guarded .randomWrite
  | tlbinv => exact EffectKeepsModeRegs.next h <| .guarded .invalidation
  | tlbinvf => exact EffectKeepsModeRegs.next h <| .guarded .invalidation
  | tlbp => exact EffectKeepsModeRegs.next h <| .guarded .probe
  | tlbr =>
    exact EffectKeepsModeRegs.next h <| .guarded <| .ite .error <| .ite
      (.ok (KeepsModeRegs.loadInvalid ..).updateRidInRoot)
      (.ite (.ok (KeepsModeRegs.loadInvalid ..)) (.ok (KeepsModeRegs.loadEntry ..).updateRidInRoot))
  | tlbwi => exact EffectKeepsModeRegs.next h <| .guarded .indexedWrite
  | tlbwr => exact EffectKeepsModeRegs.next h <| .guarded .randomWrite

/-! ### The modes as R202 writes them out -/

theorem isGuestMode_iff (s : State) :
    s.isGuestMode = true ↔ s.gm = true ∧ s.dm = false ∧ s.root.erl = false ∧ s.root.exl = false := by
  simp [State.isGuestMode, and_assoc]

theorem isRootMode_iff (s : State) :
    s.isRootMode = true ↔ s.gm = false ∨ (s.gm = true ∧ (s.dm = true ∨ s.root.erl = true ∨ s.root.exl = true)) := by
  simp [State.isRootMode, or_assoc]

/-- Settles O11: the two predicates are R202's, and what every completed instruction keeps decides them. -/
theorem modeIsAFunctionOfFourBitsAndConstant : Obligations.ModeIsAFunctionOfFourBitsAndConstant := by
  refine ⟨isGuestMode_iff, isRootMode_iff, isRootMode_eq, fun i s t h => ?_⟩
  have hk : KeepsModeRegs s t := exec_keepsModeRegs h
  exact ⟨hk.gm, hk.dm, hk.rootErl, hk.rootExl, hk.isGuestMode, hk.isRootMode⟩

end Sys2Proof.Machine
end

section
/-! Encoding (O1, O2, O3, O5). The decoder is inverted in O4's part; here the word of a format `GM` instruction is
decoded back, the bytes of a word are put together again, and the mask of a row is read as its fixed fields. -/

namespace Sys2Proof

/-! ### Fields of a word (R71, R73) -/

theorem wordField_lt (w : Half) (lo len : Nat) : wordField w lo len < 2 ^ len := Nat.mod_lt _ (by positivity)

theorem wordField_eq_toNat (w : Half) (lo len : Nat) : wordField w lo len = (w.extractLsb' lo len).toNat := by
  rw [wordField, BitVec.extractLsb'_toNat, Nat.shiftRight_eq_div_pow]

/-- The three operand fields of a word are operands the format admits (R71, R78). -/
theorem gmOk_wordField (w : Half) : gmOk (wordField w 16 5) (wordField w 11 5) (wordField w 0 3) = true := by
  have hrt := wordField_lt w 16 5
  have hrd := wordField_lt w 11 5
  have hsel := wordField_lt w 0 3
  simp only [gmOk, rtOk, rdOk, selOk, Bool.and_eq_true, decide_eq_true_eq]
  omega

/-! ### A decoded instruction is well formed (R71, R76) -/

theorem wf_of_decodeGm {sub rt rd sel : Nat} {i : Instr} (h : decodeGm sub rt rd sel = some i) :
    i.wf = gmOk rt rd sel := by
  unfold decodeGm at h
  split at h <;> cases h <;> rfl

theorem wf_of_decodeCo {f : Nat} {i : Instr} (h : decodeCo f = some i) : i.wf = true := by
  unfold decodeCo at h
  split at h <;> cases h <;> rfl

theorem wf_of_decodeRow {w : Half} {i : Instr} (h : decodeRow w = some i) : i.wf = true := by
  unfold decodeRow at h
  split at h
  next =>
    split at h
    next => rw [wf_of_decodeGm h, gmOk_wordField]
    next =>
      split at h
      next => exact wf_of_decodeCo h
      next => cases h
  next => cases h

/-- Settles O2: the operand fields have the widths of R71, and the formats leave no bit of the word unread. -/
theorem decodedWordIsItsEncoding : Obligations.DecodedWordIsItsEncoding := by
  intro w i h
  have hrow : decodeRow w = some i := decodeWord_eq_ok_iff.1 h
  exact ⟨wf_of_decodeRow hrow, encode_of_decodeRow hrow⟩

/-! ### Format `GM` words are decoded by `sub` (R71, R74) -/

/-- A word with the fixed fields of format `GM` is decoded by its `sub`. -/
theorem decodeRow_of_gm {w : Half} (hfix : wordField w 21 11 = 0b01000000011) (hzero : wordField w 3 5 = 0) :
    decodeRow w = decodeGm (wordField w 8 3) (wordField w 16 5) (wordField w 11 5) (wordField w 0 3) := by
  have hop : wordField w 26 6 = 0b010000 := by rw [wordField] at hfix ⊢; omega
  have hfmt : wordField w 21 5 = 0b00011 := by rw [wordField] at hfix ⊢; omega
  simp [decodeRow, hop, hfmt, hzero]

theorem toNat_encodeGm {sub rt rd sel : Nat} (hs : sub < 8) (h : gmOk rt rd sel = true) :
    (encodeGm sub rt rd sel).toNat = 0x40600000 + rt * 2 ^ 16 + rd * 2 ^ 11 + sub * 2 ^ 8 + sel := by
  simp only [gmOk, rtOk, rdOk, selOk, Bool.and_eq_true, decide_eq_true_eq] at h
  rw [encodeGm, BitVec.toNat_ofNat]
  omega

/-- The four free fields of a format `GM` word are what was put there. -/
theorem encodeGm_fields {sub rt rd sel : Nat} (hs : sub < 8) (h : gmOk rt rd sel = true) :
    wordField (encodeGm sub rt rd sel) 8 3 = sub ∧ wordField (encodeGm sub rt rd sel) 16 5 = rt ∧
      wordField (encodeGm sub rt rd sel) 11 5 = rd ∧ wordField (encodeGm sub rt rd sel) 0 3 = sel := by
  simp only [wordField, toNat_encodeGm hs h]
  simp only [gmOk, rtOk, rdOk, selOk, Bool.and_eq_true, decide_eq_true_eq] at h
  omega

theorem decodeRow_encodeGm {sub rt rd sel : Nat} (hs : sub < 8) (h : gmOk rt rd sel = true) :
    decodeRow (encodeGm sub rt rd sel) = decodeGm sub rt rd sel := by
  obtain ⟨hfix, hzero⟩ := encodeGm_form sub rt rd sel hs h
  obtain ⟨hsub, hrt, hrd, hsel⟩ := encodeGm_fields hs h
  rw [decodeRow_of_gm hfix hzero, hsub, hrt, hrd, hsel]

/-! ### Decoding undoes encoding (R74, R75, R87) -/

theorem decodeRow_encode (i : Instr) (h : i.wf = true) : decodeRow (encode i) = some i := by
  cases i with
  | dmfgc0 => exact decodeRow_encodeGm (by decide) h
  | dmtgc0 => exact decodeRow_encodeGm (by decide) h
  | mfgc0 => exact decodeRow_encodeGm (by decide) h
  | mfhgc0 => exact decodeRow_encodeGm (by decide) h
  | mtgc0 => exact decodeRow_encodeGm (by decide) h
  | mthgc0 => exact decodeRow_encodeGm (by decide) h
  | tlbginv => exact decodeRow_encodeCo (by decide)
  | tlbginvf => exact decodeRow_encodeCo (by decide)
  | tlbgp => exact decodeRow_encodeCo (by decide)
  | tlbgr => exact decodeRow_encodeCo (by decide)
  | tlbgwi => exact decodeRow_encodeCo (by decide)
  | tlbgwr => exact decodeRow_encodeCo (by decide)
  | tlbinv => exact decodeRow_encodeCo (by decide)
  | tlbinvf => exact decodeRow_encodeCo (by decide)
  | tlbp => exact decodeRow_encodeCo (by decide)
  | tlbr => exact decodeRow_encodeCo (by decide)
  | tlbwi => exact decodeRow_encodeCo (by decide)
  | tlbwr => exact decodeRow_encodeCo (by decide)

theorem decodeWord_encode (i : Instr) (h : i.wf = true) : decodeWord (encode i) = .ok i :=
  decodeWord_eq_ok_iff.2 (decodeRow_encode i h)

/-- The four bytes of a word, put together from the highest. -/
theorem append_bytes_of_word (w : Half) :
    (w.extractLsb' 24 8 ++ w.extractLsb' 16 8 ++ w.extractLsb' 8 8 ++ w.extractLsb' 0 8 : Half) = w := by
  rw [BitVec.extractLsb'_append_extractLsb'_eq_extractLsb' (by decide),
    BitVec.extractLsb'_append_extractLsb'_eq_extractLsb' (by decide),
    BitVec.extractLsb'_append_extractLsb'_eq_extractLsb' (by decide)]
  simp

/-- Laying a word out as bytes and decoding them, in either byte order (R62, R70). -/
theorem decode_wordToBytes_append (big : Bool) (w : Half) (rest : List Byte) {i : Instr} (h : decodeWord w = .ok i) :
    decode big (wordToBytes big w ++ rest) = .ok (i, rest) := by
  cases big <;>
    simp only [wordToBytes, Bool.false_eq_true, if_false, if_true, List.cons_append, List.nil_append, decode,
      bytesToWord, append_bytes_of_word, h]

/-- Settles O1: the fields of each word are the ones its instruction put there. -/
theorem encodeThenDecodeIsIdentity : Obligations.EncodeThenDecodeIsIdentity := by
  intro i h
  have hw : decodeWord (encode i) = .ok i := decodeWord_encode i h
  exact ⟨hw, fun big rest => decode_wordToBytes_append big (encode i) rest hw⟩

/-- Settles O5: each word is the encoding of its instruction; the last has a nonzero bit in the zero field of R71. -/
theorem sampleWordsDecodeAsPrinted : Obligations.SampleWordsDecodeAsPrinted :=
  ⟨decodeWord_encode (.dmfgc0 2 10 0) rfl, decodeWord_encode (.mfgc0 31 31 7) rfl,
   decodeWord_encode (.dmtgc0 5 10 0) rfl, decodeWord_encode (.mthgc0 8 2 0) rfl, decodeWord_encode .tlbgwr rfl,
   decodeWord_encode .tlbwr rfl, by decide⟩

/-! ### The mask of the format `GM` rows (R74) -/

/-- Under the mask of the format `GM` rows a word keeps bits 31:21 and 10:3. -/
theorem and_gmMask (w : Half) :
    w &&& 0xFFE007F8#32 = w.extractLsb' 21 11 ++ 0#10 ++ w.extractLsb' 3 8 ++ 0#3 := by
  apply BitVec.eq_of_getLsbD_eq
  intro b hb
  simp only [BitVec.getLsbD_append, BitVec.getLsbD_and, BitVec.getLsbD_extractLsb']
  interval_cases b <;> simp

theorem extract_high_and_gmMask (w : Half) : (w &&& 0xFFE007F8#32).extractLsb' 21 11 = w.extractLsb' 21 11 := by
  rw [BitVec.extractLsb'_and]
  exact BitVec.and_allOnes

theorem extract_low_and_gmMask (w : Half) : (w &&& 0xFFE007F8#32).extractLsb' 3 8 = w.extractLsb' 3 8 := by
  rw [BitVec.extractLsb'_and]
  exact BitVec.and_allOnes

/-- Two words agree under the mask when they agree in bits 31:21 and 10:3. -/
theorem and_gmMask_eq_iff (w v : Half) :
    w &&& 0xFFE007F8#32 = v &&& 0xFFE007F8#32 ↔
      wordField w 21 11 = wordField v 21 11 ∧ wordField w 3 8 = wordField v 3 8 := by
  simp only [wordField_eq_toNat, BitVec.toNat_inj]
  constructor
  · intro h
    rw [← extract_high_and_gmMask w, ← extract_low_and_gmMask w, h]
    exact ⟨extract_high_and_gmMask v, extract_low_and_gmMask v⟩
  · rintro ⟨hhigh, hlow⟩
    rw [and_gmMask, and_gmMask, hhigh, hlow]

/-- A word matches the row of a `sub` under the mask when it has the fixed fields of format `GM` and that `sub`. -/
theorem and_gmMask_eq_row_iff (w : Half) {sub : Nat} (hs : sub < 8) :
    w &&& 0xFFE007F8#32 = encodeGm sub 0 0 0 ↔
      wordField w 21 11 = 0b01000000011 ∧ wordField w 3 5 = 0 ∧ wordField w 8 3 = sub := by
  have hrow : encodeGm sub 0 0 0 &&& 0xFFE007F8#32 = encodeGm sub 0 0 0 := by interval_cases sub <;> decide
  obtain ⟨hfix, hzero⟩ := encodeGm_form sub 0 0 0 hs rfl
  have hsub := (encodeGm_fields hs (rt := 0) (rd := 0) (sel := 0) rfl).1
  rw [← hrow, and_gmMask_eq_iff]
  simp only [wordField] at *
  omega

/-- A word is decoded to the row of its `sub`, with its own operand fields, exactly when it matches the row. -/
theorem decodeWord_gm_iff {w : Half} {sub : Nat} {i : Instr}
    (hi : decodeGm sub (w.extractLsb' 16 5).toNat (w.extractLsb' 11 5).toNat (w.extractLsb' 0 3).toNat = some i)
    (hs : sub < 8) : decodeWord w = .ok i ↔ w &&& 0xFFE007F8#32 = encodeGm sub 0 0 0 := by
  simp only [← wordField_eq_toNat] at hi
  rw [decodeWord_eq_ok_iff, and_gmMask_eq_row_iff w hs]
  constructor
  · intro h
    have hw : encodeGm sub _ _ _ = w := (encode_of_decodeGm hi).symm.trans (encode_of_decodeRow h)
    obtain ⟨hfix, hzero⟩ := encodeGm_form sub _ _ _ hs (gmOk_wordField w)
    have hsub := (encodeGm_fields hs (gmOk_wordField w)).1
    rw [hw] at hfix hzero hsub
    exact ⟨hfix, hzero, hsub⟩
  · rintro ⟨hfix, hzero, rfl⟩
    rw [decodeRow_of_gm hfix hzero, hi]

/-- A word that matches a `sub` with no row is no instruction (R77, D13). -/
theorem decodeWord_gm_none {w : Half} {sub : Nat} (hs : sub < 8) (hnone : ∀ rt rd sel, decodeGm sub rt rd sel = none)
    (h : w &&& 0xFFE007F8#32 = encodeGm sub 0 0 0) : decodeWord w = .error (.notInSpec w) := by
  obtain ⟨hfix, hzero, hsub⟩ := (and_gmMask_eq_row_iff w hs).1 h
  simp [decodeWord, decodeRow_of_gm hfix hzero, hsub, hnone]

/-- Settles O3: each row's `sub`, under the mask that keeps the fixed fields. -/
theorem guestMoveRowsMatchUnderMask : Obligations.GuestMoveRowsMatchUnderMask := fun _ =>
  ⟨decodeWord_gm_iff (sub := 0) rfl (by decide), decodeWord_gm_iff (sub := 1) rfl (by decide),
   decodeWord_gm_iff (sub := 2) rfl (by decide), decodeWord_gm_iff (sub := 3) rfl (by decide),
   decodeWord_gm_iff (sub := 4) rfl (by decide), decodeWord_gm_iff (sub := 6) rfl (by decide),
   fun h => h.elim (decodeWord_gm_none (sub := 5) (by decide) fun _ _ _ => rfl)
     (decodeWord_gm_none (sub := 7) (by decide) fun _ _ _ => rfl)⟩

end Sys2Proof
end

section
/-! One step (O6 to O9): the word at an aligned `pc` is decoded and run, a word laid into the program text is the word
read from it; and the general registers and register numbers (O16, O26). -/

namespace Sys2Proof.Machine

/-! ### Reading bytes that were written (R18, R61) -/

/-- A read that does not reach the address of a written byte. -/
theorem memRead_memPut_outside (m : List Host.Cell) (a : Nat) (b : Byte) (n : Nat) (addr : Word)
    (h : ∀ k < n, (addr.toNat + k) % 2 ^ 64 ≠ a) : memRead (memPut m a b) addr n = memRead m addr n := by
  induction n generalizing addr with
  | zero => rfl
  | succ n ih =>
    have hhead : addr.toNat ≠ a := by
      have := h 0 (by omega)
      omega
    have hrest : memRead (memPut m a b) (addr + 1#64) n = memRead m (addr + 1#64) n := by
      refine ih _ fun k hk => ?_
      have := h (k + 1) (by omega)
      rw [BitVec.toNat_add, BitVec.toNat_ofNat]
      omega
    rw [memRead, memRead, hrest, memGet_memPut_other _ _ _ _ hhead]

/-- Bytes that do not wrap around onto themselves are read back from where they were written. -/
theorem memRead_memWrite (m : List Host.Cell) (bs : List Byte) (addr : Word) (h : bs.length ≤ 2 ^ 64) :
    memRead (memWrite m addr bs) addr bs.length = some bs := by
  induction bs generalizing addr with
  | nil => rfl
  | cons b bs ih =>
    rw [List.length_cons] at h
    have hrest : memRead (memPut (memWrite m (addr + 1#64) bs) addr.toNat b) (addr + 1#64) bs.length = some bs := by
      rw [memRead_memPut_outside, ih _ (by omega)]
      intro k hk
      rw [BitVec.toNat_add, BitVec.toNat_ofNat]
      omega
    rw [List.length_cons, memRead, memWrite, memGet_memPut_same, hrest]

/-! ### What a step runs (R20, R62, R77) -/

theorem length_wordToBytes (big : Bool) (w : Half) : (wordToBytes big w).length = 4 := by cases big <;> rfl

theorem step_of_misaligned {s : State} (h : s.pc.toNat % 4 ≠ 0) : step s = .refused (.pcMisaligned s.pc) := by
  simp [step, State.pcAligned, h]

theorem step_of_decoded {s : State} {bytes rest : List Byte} {i : Instr} (hpc : s.pc.toNat % 4 = 0)
    (hb : memRead s.mem s.pc 4 = some bytes) (hd : decode s.cfg.bigEndian bytes = .ok (i, rest)) :
    step s = exec i s := by
  simp [step, State.pcAligned, State.fetchBytes, hpc, hb, hd]

theorem step_of_notInSpec {s : State} {bytes : List Byte} {w : Half} (hpc : s.pc.toNat % 4 = 0)
    (hb : memRead s.mem s.pc 4 = some bytes) (hd : decode s.cfg.bigEndian bytes = .error (.notInSpec w)) :
    step s = .refused (.notInSpec w) := by
  simp [step, State.pcAligned, State.fetchBytes, hpc, hb, hd]

/-- A step that answers a next state has run an instruction. -/
theorem exec_of_step {s t : State} (h : step s = .next t) : ∃ i, exec i s = .next t := by
  unfold step at h
  split at h
  next =>
    split at h
    next => cases h
    next =>
      split at h
      next i _ _ => exact ⟨i, h⟩
      next => cases h
      next => cases h
  next => cases h

/-- The decoder refuses only the words that encode nothing (R77). -/
theorem decodeWord_of_not_encoded {w : Half} (h : ∀ i, i.wf = true → encode i ≠ w) :
    decodeWord w = .error (.notInSpec w) := by
  cases hd : decodeRow w with
  | none => simp [decodeWord, hd]
  | some i => exact absurd (encode_of_decodeRow hd) (h i (wf_of_decodeRow hd))

/-- The word stored at `pc` is read from there. -/
theorem fetch_withFetchWord (s : State) (w : Half) :
    memRead (s.withFetchWord 32 w.toNat).mem (s.withFetchWord 32 w.toNat).pc 4 =
      some (wordToBytes s.cfg.bigEndian w) := by
  have hw : BitVec.ofNat 32 (w.toNat % 2 ^ 32) = w := by
    rw [Nat.mod_eq_of_lt w.isLt, BitVec.ofNat_toNat, BitVec.setWidth_eq]
  rw [← length_wordToBytes s.cfg.bigEndian w, State.withFetchWord, hw]
  exact memRead_memWrite _ _ _ (by rw [length_wordToBytes]; decide)

/-- Settles O6: the three tests of a step pass, and nothing stands around `exec`. -/
theorem stepRunsTheDecodedInstruction : Obligations.StepRunsTheDecodedInstruction := fun _ _ _ _ hpc hb hd =>
  step_of_decoded hpc hb hd

/-- Settles O7: a word that encodes nothing does not decode. -/
theorem stepRefusesWhatIsNotInTheTable : Obligations.StepRefusesWhatIsNotInTheTable := by
  refine ⟨fun s b0 b1 b2 b3 hpc hb hnone => step_of_notInSpec hpc hb ?_, fun s => step_of_misaligned⟩
  rw [decode, decodeWord_of_not_encoded hnone]

/-- Settles O8: the word is read back from where it was stored, and decodes to its instruction. -/
theorem storedInstructionIsRunNext : Obligations.StoredInstructionIsRunNext := by
  intro s i hpc hi
  refine step_of_decoded hpc (fetch_withFetchWord s (encode i)) (rest := []) ?_
  have hd := decode_wordToBytes_append s.cfg.bigEndian (encode i) [] (decodeWord_encode i hi)
  rwa [List.append_nil] at hd

/-- Settles O9: the reset state is a closed term, and each check of it is evaluated. -/
theorem resetIsAWellFormedRootKernelLaunch : Obligations.ResetIsAWellFormedRootKernelLaunch :=
  ⟨by decide, by decide, by decide, by decide, by decide, rfl⟩

/-! ### Registers (R21, R28) -/

/-- Settles O16: the reads and writes of the general registers, 0 apart. -/
theorem generalRegistersReadBackAndZeroIsFixed : Obligations.GeneralRegistersReadBackAndZeroIsFixed :=
  fun s v => ⟨getGpr_zero s, setGpr_zero s v, fun r h0 h =>
    ⟨getGpr_setGpr_same s r v (by omega) h, fun q => getGpr_setGpr_other s r q v⟩⟩

theorem get_watchHi (k : Cp0) (sel : Fin 8) : k.get (regName 19 sel) = k.watchHi[sel].setWidth 64 := by
  have hn : regName 19 sel = .watchHi sel := by simp [regName]
  simp [hn, Cp0.get]

/-- Settles O26: each pair's name stands for its field. -/
theorem registerNumbersNameTheRegisters : Obligations.RegisterNumbersNameTheRegisters := fun k =>
  ⟨rfl, rfl, rfl, rfl, rfl, rfl, rfl, rfl, rfl, rfl, rfl, rfl, rfl, rfl, get_watchHi k⟩

end Sys2Proof.Machine
end

section
/-! Every instruction is its guards, then its effect, then `finish` (R207). `exec_eq` says so once for the eighteen
arms; the exceptions and refusals (O17 to O25) are read off the two parts. -/

namespace Sys2Proof.Machine

/-! ### The three families and the parts of an instruction (R100, R130, R160) -/

/-- Which guards an instruction starts with. -/
inductive Family where
  | guestMove
  | guestTlb
  | baseTlb

/-- The family of an instruction (R5). -/
def family : Instr → Family
  | .dmfgc0 .. | .dmtgc0 .. | .mfgc0 .. | .mfhgc0 .. | .mtgc0 .. | .mthgc0 .. => .guestMove
  | .tlbginv | .tlbginvf | .tlbgp | .tlbgr | .tlbgwi | .tlbgwr => .guestTlb
  | .tlbinv | .tlbinvf | .tlbp | .tlbr | .tlbwi | .tlbwr => .baseTlb

/-- The argument its guards take: a doubleword move needs 64-bit operations (R100), an invalidate instruction the
invalid bit (R130, R160). -/
def needsExtra : Instr → Bool
  | .dmfgc0 .. | .dmtgc0 .. | .tlbginv | .tlbginvf | .tlbinv | .tlbinvf => true
  | _ => false

/-- The guards of an instruction. -/
def instrGuards (i : Instr) (s : State) : Run Unit :=
  match family i with
  | .guestMove => guestMoveGuards (needsExtra i) s
  | .guestTlb => tlbgGuards (needsExtra i) s
  | .baseTlb => tlbGuards (needsExtra i) s

/-- The context an instruction works on (R16, R203). -/
def instrCtx (i : Instr) (s : State) : Ctx :=
  match family i with
  | .baseTlb => s.cur
  | _ => .guest

/-- A part of an instruction that runs where its guards pass. -/
def behind (g : Run Unit) (r : Run State) : Run State :=
  match g with
  | .error e => .error e
  | .ok _ => r

/-- The range of R131, then the marking of the entries in it that pass a test (R133, R134). -/
def invalidation (c : Ctx) (test : TlbEntry → Bool) (s : State) : Run State :=
  match invRange c s with
  | .error e => .error e
  | .ok range => .ok (invalidateWhere c range test s)

/-- What an instruction does behind its guards. -/
def instrEffect (i : Instr) (s : State) : Run State :=
  match i with
  | .dmfgc0 rt rd sel =>
    if s.regPresent rd sel && (s.regInfo rd sel).width == .w32 then refuse (.guestRegisterIs32Bit rd sel)
    else moveFrom rt rd sel (fun data => data) s
  | .dmtgc0 rt rd sel =>
    if isCount rd sel then refuse .guestCountIsReadOnly
    else if s.regPresent rd sel && (s.regInfo rd sel).width == .w32 then refuse (.guestRegisterIs32Bit rd sel)
    else s.guestWrite rd sel (s.getGpr rt) (BitVec.allOnes 64)
  | .mfgc0 rt rd sel => if isEntryLo rd sel then moveFrom rt rd sel entryLoLow s else moveFrom rt rd sel sextLow s
  | .mfhgc0 rt rd sel =>
    behind (highHalfGuards s rd sel) <|
      if isEntryLo rd sel then moveFrom rt rd sel (entryLoHigh s.cfg.rixiSupported) s
      else moveFrom rt rd sel (fun data => (data.extractLsb' 32 32).signExtend 64) s
  | .mtgc0 rt rd sel =>
    if isCount rd sel then refuse .guestCountIsReadOnly
    else if isEntryLo rd sel then s.guestWrite rd sel (entryLoFromLow (s.getGpr rt)) (BitVec.allOnes 64)
    else s.guestWrite rd sel (s.getGpr rt) (widthMask (s.regInfo rd sel).width)
  | .mthgc0 rt rd sel =>
    behind (highHalfGuards s rd sel) <|
      if isEntryLo rd sel then s.guestWrite rd sel (entryLoFromHigh s.cfg (s.getGpr rt)) entryLoHighMask
      else s.guestWrite rd sel (s.getGpr rt <<< 32) highMask
  | .tlbginv => invalidation .guest (asidTest .guest s.rid s) s
  | .tlbginvf => invalidation .guest (s.gidOk s.rid) s
  | .tlbgp => probe .guest (seenHits .guest s.rid s) s
  | .tlbgr =>
    if s.tlbEntries .guest ≤ s.idx .guest then refuse .indexBeyondTlb
    else if s.markedInvalid .guest (s.entry .guest (s.idx .guest)) then .ok ((loadInvalid .guest s).updateRid 0#8)
    else .ok ((loadEntry .guest (s.entry .guest (s.idx .guest)) s).updateRid (s.entry .guest (s.idx .guest)).guestId)
  | .tlbgwi => indexedWrite .guest (s.gAnd .guest) s.rid s
  | .tlbgwr => randomWrite .guest (s.gAnd .guest) s.rid s
  | .tlbinv => invalidation s.cur (asidTest s.cur s.curGid s) s
  | .tlbinvf => invalidation s.cur (s.gidOk s.curGid) s
  | .tlbp => probe s.cur (hits s.cur s.curGid s) s
  | .tlbr =>
    if s.tlbEntries s.cur ≤ s.idx s.cur then refuse .indexBeyondTlb
    else if s.markedInvalid s.cur (s.entry s.cur (s.idx s.cur)) then .ok ((loadInvalid s.cur s).updateRidInRoot 0#8)
    else if s.isGuestMode && !s.gidOk s.id (s.entry s.cur (s.idx s.cur)) then .ok (loadInvalid s.cur s)
    else .ok ((loadEntry s.cur (s.entry s.cur (s.idx s.cur)) s).updateRidInRoot
      (s.entry s.cur (s.idx s.cur)).guestId)
  | .tlbwi => indexedWrite s.cur s.gForBase s.curGid s
  | .tlbwr => randomWrite s.cur s.gForBase s.curGid s

/-- Each of the eighteen instructions is its guards, its effect and `finish`. -/
theorem exec_eq (i : Instr) (s : State) : exec i s = finish (behind (instrGuards i s) (instrEffect i s)) := by
  cases i <;> rfl

/-! ### Taking an instruction apart, and putting one together -/

@[simp] theorem behind_ok (r : Run State) : behind (.ok ()) r = r := rfl

@[simp] theorem behind_error (e : Stop) (r : Run State) : behind (.error e) r = .error e := rfl

theorem behind_eq_ok {g : Run Unit} {r : Run State} {u : State} : behind g r = .ok u ↔ g = .ok () ∧ r = .ok u := by
  cases g <;> simp [behind]

theorem behind_eq_error {g : Run Unit} {r : Run State} {e : Stop} :
    behind g r = .error e ↔ g = .error e ∨ g = .ok () ∧ r = .error e := by
  cases g <;> simp [behind]

/-- An instruction whose guards pass ends as its effect does. -/
theorem exec_of_guards {i : Instr} {s : State} (hg : instrGuards i s = .ok ()) :
    exec i s = finish (instrEffect i s) := by
  rw [exec_eq, hg, behind_ok]

theorem exec_of_effect {i : Instr} {s u : State} (hg : instrGuards i s = .ok ()) (hu : instrEffect i s = .ok u) :
    exec i s = .next u.advance := by
  rw [exec_of_guards hg, hu, finish]

theorem exec_of_refusal {i : Instr} {s : State} {r : Refusal} (hg : instrGuards i s = .ok ())
    (hr : instrEffect i s = refuse r) : exec i s = .refused r := by
  rw [exec_of_guards hg, hr, refuse, finish]

theorem exec_of_guards_raise {i : Instr} {s : State} {k : ExcKind} (hg : instrGuards i s = raise k s) :
    exec i s = .fault (.trap { kind := k, takenIn := s.cur, pc := s.pc }) := by
  rw [exec_eq, hg]
  rfl

theorem exec_of_guards_refuse {i : Instr} {s : State} {r : Refusal} (hg : instrGuards i s = refuse r) :
    exec i s = .refused r := by
  rw [exec_eq, hg]
  rfl

/-- A completed instruction has passed its guards and completed its effect. -/
theorem exec_next {i : Instr} {s t : State} (h : exec i s = .next t) :
    instrGuards i s = .ok () ∧ ∃ u, instrEffect i s = .ok u ∧ t = u.advance := by
  rw [exec_eq] at h
  obtain ⟨u, hu, rfl⟩ := finish_next.1 h
  obtain ⟨hg, he⟩ := behind_eq_ok.1 hu
  exact ⟨hg, u, he, rfl⟩

/-! ### The guards of a family -/

theorem family_baseTlb_iff (i : Instr) :
    family i = .baseTlb ↔ i ∈ [.tlbinv, .tlbinvf, .tlbp, .tlbr, .tlbwi, .tlbwr] := by
  cases i <;> simp [family]

theorem family_guestTlb_iff (i : Instr) :
    family i = .guestTlb ↔ i ∈ [.tlbginv, .tlbginvf, .tlbgp, .tlbgr, .tlbgwi, .tlbgwr] := by
  cases i <;> simp [family]

theorem guards_guestMove {i : Instr} {s : State} (hf : family i = .guestMove) (h : RootAccess s)
    (h64 : needsExtra i = true → s.ops64Enabled = true) : instrGuards i s = .ok () := by
  simpa [instrGuards, hf] using h.guards h64

theorem guards_guestTlb {i : Instr} {s : State} (hf : family i = .guestTlb) (h : GuestTlbAccess s)
    (hi : needsExtra i = true → 2 ≤ s.guest.ie) : instrGuards i s = .ok () := by
  simpa [instrGuards, hf] using h.guards fun hx => (hasInvalid_iff _).2 (hi hx)

theorem guards_baseTlb {i : Instr} {s : State} (hf : family i = .baseTlb) (h : BaseTlbAccess s)
    (hi : needsExtra i = true → 2 ≤ (s.cp0 s.cur).ie) : instrGuards i s = .ok () := by
  simpa [instrGuards, hf] using h.guards fun hx => (hasInvalid_iff _).2 (hi hx)

/-- Guard 1: coprocessor 0 is not enabled (R100, R130, R160). -/
theorem guards_cp0Disabled (i : Instr) {s : State} (hm : s.modeHasNoMeaning = false) (hc : s.cp0Enabled = false) :
    instrGuards i s = raise (.coprocessorUnusable 0) s := by
  unfold instrGuards
  cases family i <;> simp [guestMoveGuards, tlbgGuards, tlbGuards, hm, hc]

/-- Guard 2: the executing context does not implement the module (R100, R130); the base family has no such guard. -/
theorem guards_noVz {i : Instr} {s : State} (hf : family i ≠ .baseTlb) (hm : s.modeHasNoMeaning = false)
    (hc : s.cp0Enabled = true) (hv : (s.cp0 s.cur).vz = false) : instrGuards i s = raise .reservedInstruction s := by
  unfold instrGuards
  cases hi : family i with
  | guestMove => simp [guestMoveGuards, hm, hc, hv]
  | guestTlb => simp [tlbgGuards, hm, hc, hv]
  | baseTlb => exact absurd hi hf

/-- Guard 3 of the moves: a doubleword move needs 64-bit operations (R100). -/
theorem guards_noOps64 {i : Instr} {s : State} (hf : family i = .guestMove) (hx : needsExtra i = true)
    (h : RootAccess s) (h64 : s.ops64Enabled = false) : instrGuards i s = raise .reservedInstruction s := by
  obtain ⟨hroot, hvz, hmode, hcop⟩ := h
  simp [instrGuards, hf, hx, guestMoveGuards, hmode, hcop, cur_of_root hroot, hvz, h64]

/-- The TLB guard of the guest family (R130). -/
theorem guards_guestTlb_noTlb {i : Instr} {s : State} (hf : family i = .guestTlb) (h : RootAccess s)
    (ht : s.guest.hasTlb = false) : instrGuards i s = refuse .noTlb := by
  obtain ⟨hroot, hvz, hmode, hcop⟩ := h
  simp [instrGuards, hf, tlbgGuards, hmode, hcop, cur_of_root hroot, hvz, ht]

/-- The TLB guard of the base family (R160). -/
theorem guards_baseTlb_noTlb {i : Instr} {s : State} (hf : family i = .baseTlb) (hm : s.modeHasNoMeaning = false)
    (hc : s.cp0Enabled = true) (ht : (s.cp0 s.cur).hasTlb = false) : instrGuards i s = refuse .noTlb := by
  simp [instrGuards, hf, tlbGuards, hm, hc, ht]

theorem hasInvalid_eq_false {k : Cp0} (h : k.ie < 2) : k.hasInvalid = false := by simp [Cp0.hasInvalid, h]

/-- The last guard of TLBGINV and TLBGINVF: the guest has the invalid bit (R130). -/
theorem guards_guestTlb_noInvalid {i : Instr} {s : State} (hf : family i = .guestTlb) (hx : needsExtra i = true)
    (h : GuestTlbAccess s) (hi : s.guest.ie < 2) : instrGuards i s = raise .reservedInstruction s := by
  obtain ⟨⟨hroot, hvz, hmode, hcop⟩, htlb⟩ := h
  simp [instrGuards, hf, hx, tlbgGuards, hmode, hcop, cur_of_root hroot, hvz, htlb, hasInvalid_eq_false hi]

/-- The last guard of TLBINV and TLBINVF: the executing context has the invalid bit (R160). -/
theorem guards_baseTlb_noInvalid {i : Instr} {s : State} (hf : family i = .baseTlb) (hx : needsExtra i = true)
    (h : BaseTlbAccess s) (hi : (s.cp0 s.cur).ie < 2) : instrGuards i s = raise .reservedInstruction s := by
  obtain ⟨hmode, hcop, htlb⟩ := h
  simp [instrGuards, hf, hx, tlbGuards, hmode, hcop, htlb, hasInvalid_eq_false hi]

/-- Everything the guards can answer when they stop an instruction. -/
theorem instrGuards_error {i : Instr} {s : State} {e : Stop} (h : instrGuards i s = .error e) :
    (∃ r, e = .refuse r) ∨ ∃ k, (k = .coprocessorUnusable 0 ∨ k = .reservedInstruction) ∧
      e = .fault (.trap { kind := k, takenIn := s.cur, pc := s.pc }) := by
  unfold instrGuards at h
  split at h
  · rcases guestMoveGuards_error h with he | hk
    · exact .inl ⟨_, he⟩
    · exact .inr hk
  · rcases tlbgGuards_error h with he | he | hk
    · exact .inl ⟨_, he⟩
    · exact .inl ⟨_, he⟩
    · exact .inr hk
  · rcases tlbGuards_error h with he | he | hk
    · exact .inl ⟨_, he⟩
    · exact .inl ⟨_, he⟩
    · exact .inr hk

/-! ### Exceptions of the guards (R201) -/

/-- Settles O17: the coprocessor guard stands before every other of every instruction. -/
theorem disabledCoprocessorTrapsEveryInstruction : Obligations.DisabledCoprocessorTrapsEveryInstruction :=
  fun i _ hm hc => exec_of_guards_raise (guards_cp0Disabled i hm hc)

/-- Settles O18: in guest mode the second guard tests the guest's Config3.VZ. -/
theorem guestUseOfGuestAccessIsReserved : Obligations.GuestUseOfGuestAccessIsReserved := by
  intro i s hguest hvz hm hc hi
  have hcur : s.cur = .guest := cur_of_guest hguest
  rw [exec_of_guards_raise (guards_noVz (mt (family_baseTlb_iff i).1 hi) hm hc (by rw [hcur]; exact hvz)), hcur]

/-- Settles O19: guard 3 of both doubleword moves. -/
theorem doublewordMovesNeed64BitOperations : Obligations.DoublewordMovesNeed64BitOperations := by
  intro s rt rd sel h h64
  have hcur : s.cur = .root := cur_of_root h.1
  rw [exec_of_guards_raise (guards_noOps64 rfl rfl h h64), exec_of_guards_raise (guards_noOps64 rfl rfl h h64), hcur]
  exact ⟨rfl, rfl⟩

/-- Settles O20: the last guard of the four invalidate instructions. -/
theorem invalidateNeedsIeAtLeastTwo : Obligations.InvalidateNeedsIeAtLeastTwo := by
  refine ⟨fun s h hi => ?_, fun s h hi => ⟨?_, ?_⟩⟩
  · have hcur : s.cur = .root := cur_of_root h.1.1
    rw [exec_of_guards_raise (guards_guestTlb_noInvalid rfl rfl h hi),
      exec_of_guards_raise (guards_guestTlb_noInvalid rfl rfl h hi), hcur]
    exact ⟨rfl, rfl⟩
  · exact exec_of_guards_raise (guards_baseTlb_noInvalid rfl rfl h hi)
  · exact exec_of_guards_raise (guards_baseTlb_noInvalid rfl rfl h hi)

theorem hasTlb_eq_false {k : Cp0} (h1 : k.mt ≠ 1) (h4 : k.mt ≠ 4) : k.hasTlb = false := by simp [Cp0.hasTlb, h1, h4]

/-- Settles O24: the TLB guard of both families. -/
theorem tlbInstructionsWithoutATlbAreRefused : Obligations.TlbInstructionsWithoutATlbAreRefused :=
  ⟨fun i _ h h1 h4 hi =>
    exec_of_guards_refuse (guards_guestTlb_noTlb ((family_guestTlb_iff i).2 hi) h (hasTlb_eq_false h1 h4)),
   fun i _ hm hc h1 h4 hi =>
    exec_of_guards_refuse (guards_baseTlb_noTlb ((family_baseTlb_iff i).2 hi) hm hc (hasTlb_eq_false h1 h4))⟩

/-! ### Exceptions of the effects (R135, R140, R163) -/

/-- The effect of an instruction meets the cause of a Machine Check: several entries found by a probe, or a conflict at
the entry a write addresses. -/
def MachineCheckCause (i : Instr) (s : State) : Prop :=
  (i = .tlbgp ∧ 2 ≤ (seenHits .guest s.rid s).length) ∨
  (i = .tlbp ∧ 2 ≤ (hits s.cur s.curGid s).length) ∨
  (i = .tlbgwi ∧ writeConflict .guest (s.idx .guest) (s.gAnd .guest) s.rid s = true) ∨
  (i = .tlbgwr ∧ s.randomIndex .guest < s.randomBound .guest ∧
    writeConflict .guest (s.randomIndex .guest) (s.gAnd .guest) s.rid s = true) ∨
  (i = .tlbwi ∧ writeConflict s.cur (s.idx s.cur) s.gForBase s.curGid s = true) ∨
  (i = .tlbwr ∧ s.randomIndex s.cur < s.randomBound s.cur ∧
    writeConflict s.cur (s.randomIndex s.cur) s.gForBase s.curGid s = true)

/-- `r` may complete or be refused, and raises nothing. -/
def NoFault (r : Run State) : Prop := ∀ q, r ≠ .error (.fault q)

namespace NoFault
variable {s : State}

theorem ok {u : State} : NoFault (.ok u) := fun _ => nofun

theorem refuse {r : Refusal} : NoFault (refuse r) := fun _ => nofun

theorem ite {p : Prop} [Decidable p] {a b : Run State} (ha : NoFault a) (hb : NoFault b) :
    NoFault (if p then a else b) := by
  split
  · exact ha
  · exact hb

theorem moveFrom {rt rd sel : Nat} {f : Word → Word} : NoFault (moveFrom rt rd sel f s) := by
  by_cases hc : (s.regInfo rd sel).cls = .absent
  · rw [moveFrom_absent _ _ _ _ _ hc]
    exact refuse
  · rw [moveFrom_ok _ _ _ _ _ hc]
    exact ok

theorem guestWrite {rd sel : Nat} {new m : Word} : NoFault (s.guestWrite rd sel new m) := by
  intro q h
  cases (guestWrite_error h).2

/-- The move-high instructions' tests refuse and raise nothing (R106, R108). -/
theorem behindHighHalf {rd sel : Nat} {r : Run State} (hr : NoFault r) :
    NoFault (behind (highHalfGuards s rd sel) r) := by
  unfold highHalfGuards
  split
  · exact refuse
  · split
    · exact refuse
    · exact hr

theorem invalidation {c : Ctx} {test : TlbEntry → Bool} : NoFault (invalidation c test s) := by
  unfold Machine.invalidation
  split
  next e he =>
    rw [invRange_error he]
    exact refuse
  next => exact ok

end NoFault

/-- The only fault of an effect is the Machine Check of a conflict. -/
theorem instrEffect_fault {i : Instr} {s : State} {q : Fault} (h : instrEffect i s = .error (.fault q)) :
    MachineCheckCause i s ∧ q = .trap { kind := .machineCheck, takenIn := s.cur, pc := s.pc } := by
  unfold MachineCheckCause
  cases i with
  | dmfgc0 rt rd sel => exact absurd h (NoFault.ite .refuse .moveFrom q)
  | dmtgc0 rt rd sel => exact absurd h (NoFault.ite .refuse (.ite .refuse .guestWrite) q)
  | mfgc0 rt rd sel => exact absurd h (NoFault.ite .moveFrom .moveFrom q)
  | mfhgc0 rt rd sel => exact absurd h (NoFault.behindHighHalf (.ite .moveFrom .moveFrom) q)
  | mtgc0 rt rd sel => exact absurd h (NoFault.ite .refuse (.ite .guestWrite .guestWrite) q)
  | mthgc0 rt rd sel => exact absurd h (NoFault.behindHighHalf (.ite .guestWrite .guestWrite) q)
  | tlbginv => exact absurd h (NoFault.invalidation q)
  | tlbginvf => exact absurd h (NoFault.invalidation q)
  | tlbgr => exact absurd h (NoFault.ite .refuse (.ite .ok .ok) q)
  | tlbinv => exact absurd h (NoFault.invalidation q)
  | tlbinvf => exact absurd h (NoFault.invalidation q)
  | tlbr => exact absurd h (NoFault.ite .refuse (.ite .ok (.ite .ok .ok)) q)
  | tlbgp =>
    obtain ⟨hfound, he⟩ := probe_error h
    exact ⟨.inl ⟨rfl, hfound⟩, Stop.fault.inj he⟩
  | tlbp =>
    obtain ⟨hfound, he⟩ := probe_error h
    exact ⟨.inr (.inl ⟨rfl, hfound⟩), Stop.fault.inj he⟩
  | tlbgwi =>
    obtain hr | ⟨-, hc, he⟩ := indexedWrite_error h
    · cases hr
    · exact ⟨.inr (.inr (.inl ⟨rfl, hc⟩)), Stop.fault.inj he⟩
  | tlbgwr =>
    obtain hr | ⟨hlt, hc, he⟩ := randomWrite_error h
    · cases hr
    · exact ⟨.inr (.inr (.inr (.inl ⟨rfl, hlt, hc⟩))), Stop.fault.inj he⟩
  | tlbwi =>
    obtain hr | ⟨-, hc, he⟩ := indexedWrite_error h
    · cases hr
    · exact ⟨.inr (.inr (.inr (.inr (.inl ⟨rfl, hc⟩)))), Stop.fault.inj he⟩
  | tlbwr =>
    obtain hr | ⟨hlt, hc, he⟩ := randomWrite_error h
    · cases hr
    · exact ⟨.inr (.inr (.inr (.inr (.inr ⟨rfl, hlt, hc⟩)))), Stop.fault.inj he⟩

/-- Every trap of an instruction: one of the guards', or the Machine Check of a conflict; always in the executing mode's
context and at its own pc (R208, R210). -/
theorem exec_trap {i : Instr} {s : State} {tr : Trap} (h : exec i s = .fault (.trap tr)) :
    ∃ k, tr = { kind := k, takenIn := s.cur, pc := s.pc } ∧
      ((k = .coprocessorUnusable 0 ∨ k = .reservedInstruction) ∨ k = .machineCheck ∧ MachineCheckCause i s) := by
  rw [exec_eq] at h
  obtain hg | ⟨-, he⟩ := behind_eq_error.1 (finish_fault.1 h)
  · obtain ⟨r, hr⟩ | ⟨k, hk, hr⟩ := instrGuards_error hg
    · cases hr
    · cases hr
      exact ⟨k, rfl, .inl hk⟩
  · obtain ⟨hcause, hq⟩ := instrEffect_fault he
    cases hq
    exact ⟨_, rfl, .inr ⟨rfl, hcause⟩⟩

/-- Settles O21: the four places that raise an exception name the same context and the same pc. -/
theorem trapsArePreciseAndTakenInTheExecutingMode : Obligations.TrapsArePreciseAndTakenInTheExecutingMode := by
  intro i s tr h
  obtain ⟨k, rfl, hk⟩ := exec_trap h
  refine ⟨rfl, rfl, ?_⟩
  obtain (hcop | hres) | ⟨hmc, -⟩ := hk
  · exact .inl hcop
  · exact .inr (.inl hres)
  · exact .inr (.inr hmc)

/-- The G bit of TLBWI and TLBWR is R165's. -/
theorem gForBase_eq (s : State) : s.gForBase = baseG s := by
  unfold State.gForBase baseG State.gAnd
  simp only [Bool.and_eq_true, Bool.not_eq_true', bne_iff_ne, and_assoc]

theorem not_two_le_hits {c : Ctx} {gid : BitVec 8} {s : State}
    (h : ∀ i j, i < s.tlbEntries c → j < s.tlbEntries c → Matches c gid s i → Matches c gid s j → i = j) :
    ¬2 ≤ (hits c gid s).length := by
  have := hits_length_le_one h
  omega

/-- Settles O22: each cause of a Machine Check is excluded by the premise for its instruction. -/
theorem machineCheckOnlyFromConflicts : Obligations.MachineCheckOnlyFromConflicts := by
  intro i s tr h hgp hp hgwi hgwr hwi hwr
  obtain ⟨k, rfl, hk | ⟨-, hcause⟩⟩ := exec_trap h
  · exact hk
  exfalso
  obtain ⟨hi, hc⟩ | ⟨hi, hc⟩ | ⟨hi, hc⟩ | ⟨hi, hlt, hc⟩ | ⟨hi, hc⟩ | ⟨hi, hlt, hc⟩ := hcause
  · exact not_two_le_hits (hgp hi) (hc.trans (seenHits_length_le ..))
  · exact not_two_le_hits (hp hi) hc
  · exact not_allowed_of_writeConflict hc (hgwi hi)
  · exact not_allowed_of_writeConflict hc (hgwr hi _ (admitted_of_lt_randomBound hlt))
  · rw [gForBase_eq] at hc
    exact not_allowed_of_writeConflict hc (hwi hi)
  · rw [gForBase_eq] at hc
    exact not_allowed_of_writeConflict hc (hwr hi _ (admitted_of_lt_randomBound hlt))

/-! ### Refusals of the effects (R101 to R108, R131, R136, R137, R164, R165) -/

theorem regPresent_eq_false {s : State} {rd sel : Nat} (h : (s.regInfo rd sel).cls = .absent) :
    s.regPresent rd sel = false := by simp [State.regPresent, h]

theorem guestWrite_absent {s : State} {rd sel : Nat} (new m : Word) (h : (s.regInfo rd sel).cls = .absent) :
    s.guestWrite rd sel new m = refuse (.noSuchGuestRegister rd sel) := by
  rw [guestWrite_eq, if_pos h]

theorem highHalfGuards_notExtended {s : State} {rd sel : Nat} (hp : s.regPresent rd sel = true)
    (he : (s.regInfo rd sel).extended = false) :
    highHalfGuards s rd sel = refuse (.guestRegisterNotExtended rd sel) := by
  simp [highHalfGuards, hp, he]

theorem highHalfGuards_noXpa {s : State} {rd sel : Nat} (hp : s.regPresent rd sel = true)
    (he : (s.regInfo rd sel).extended = true) (hx : (s.regInfo rd sel).xpaOnly = true) (hn : s.xpaEnabled = false) :
    highHalfGuards s rd sel = refuse (.xpaNotEnabled rd sel) := by
  simp [highHalfGuards, hp, he, hx, hn]

theorem highHalfGuards_absent {s : State} {rd sel : Nat} (h : (s.regInfo rd sel).cls = .absent) :
    highHalfGuards s rd sel = .ok () :=
  highHalfGuards_ok.2 fun hp => by simp [regPresent_eq_false h] at hp

theorem guards_anyWidth {i : Instr} {s : State} (hf : family i = .guestMove) (hx : needsExtra i = false)
    (h : RootAccess s) : instrGuards i s = .ok () :=
  guards_guestMove hf h fun hn => by simp [hx] at hn

/-- A move of an absent pair, where its other tests pass: one lemma for each of the six. -/
theorem effect_mfgc0_absent {s : State} (rt : Nat) {rd sel : Nat} (h : (s.regInfo rd sel).cls = .absent) :
    instrEffect (.mfgc0 rt rd sel) s = refuse (.noSuchGuestRegister rd sel) := by
  simp [instrEffect, moveFrom_absent _ _ _ _ _ h]

theorem effect_mfhgc0_absent {s : State} (rt : Nat) {rd sel : Nat} (h : (s.regInfo rd sel).cls = .absent) :
    instrEffect (.mfhgc0 rt rd sel) s = refuse (.noSuchGuestRegister rd sel) := by
  simp [instrEffect, highHalfGuards_absent h, moveFrom_absent _ _ _ _ _ h]

theorem effect_mthgc0_absent {s : State} (rt : Nat) {rd sel : Nat} (h : (s.regInfo rd sel).cls = .absent) :
    instrEffect (.mthgc0 rt rd sel) s = refuse (.noSuchGuestRegister rd sel) := by
  simp [instrEffect, highHalfGuards_absent h, guestWrite_absent _ _ h]

theorem effect_mtgc0_absent {s : State} (rt : Nat) {rd sel : Nat} (h : (s.regInfo rd sel).cls = .absent)
    (hc : isCount rd sel = false) : instrEffect (.mtgc0 rt rd sel) s = refuse (.noSuchGuestRegister rd sel) := by
  simp [instrEffect, hc, guestWrite_absent _ _ h]

theorem effect_dmfgc0_absent {s : State} (rt : Nat) {rd sel : Nat} (h : (s.regInfo rd sel).cls = .absent) :
    instrEffect (.dmfgc0 rt rd sel) s = refuse (.noSuchGuestRegister rd sel) := by
  simp [instrEffect, regPresent_eq_false h, moveFrom_absent _ _ _ _ _ h]

theorem effect_dmtgc0_absent {s : State} (rt : Nat) {rd sel : Nat} (h : (s.regInfo rd sel).cls = .absent)
    (hc : isCount rd sel = false) : instrEffect (.dmtgc0 rt rd sel) s = refuse (.noSuchGuestRegister rd sel) := by
  simp [instrEffect, hc, regPresent_eq_false h, guestWrite_absent _ _ h]

/-- The move-high instructions refuse what their tests on the register refuse. -/
theorem effect_mfhgc0_refused {s : State} (rt : Nat) {rd sel : Nat} {r : Refusal}
    (h : highHalfGuards s rd sel = refuse r) : instrEffect (.mfhgc0 rt rd sel) s = refuse r := by
  rw [instrEffect, h]
  rfl

theorem effect_mthgc0_refused {s : State} (rt : Nat) {rd sel : Nat} {r : Refusal}
    (h : highHalfGuards s rd sel = refuse r) : instrEffect (.mthgc0 rt rd sel) s = refuse r := by
  rw [instrEffect, h]
  rfl

/-- Settles O23: each UNDEFINED case is the test of its name, and the guards and the tests before it pass. -/
theorem undefinedMovesAreRefused : Obligations.UndefinedMovesAreRefused := by
  intro s rt rd sel h
  refine ⟨fun ha => ?absent, fun hc => ?count, fun h64 hp hw => ?narrow, fun hp he => ?notExtended,
    fun hp he hx hn => ?noXpa⟩
  case absent =>
    exact ⟨exec_of_refusal (guards_anyWidth rfl rfl h) (effect_mfgc0_absent rt ha),
      exec_of_refusal (guards_anyWidth rfl rfl h) (effect_mfhgc0_absent rt ha),
      exec_of_refusal (guards_anyWidth rfl rfl h) (effect_mthgc0_absent rt ha),
      fun hc => exec_of_refusal (guards_anyWidth rfl rfl h) (effect_mtgc0_absent rt ha hc),
      fun h64 => exec_of_refusal (guards_guestMove rfl h fun _ => h64) (effect_dmfgc0_absent rt ha),
      fun h64 hc => exec_of_refusal (guards_guestMove rfl h fun _ => h64) (effect_dmtgc0_absent rt ha hc)⟩
  case count =>
    exact ⟨exec_of_refusal (guards_anyWidth rfl rfl h) (by simp [instrEffect, hc]),
      fun h64 => exec_of_refusal (guards_guestMove rfl h fun _ => h64) (by simp [instrEffect, hc])⟩
  case narrow =>
    exact ⟨exec_of_refusal (guards_guestMove rfl h fun _ => h64) (by simp [instrEffect, hp, hw]),
      fun hc => exec_of_refusal (guards_guestMove rfl h fun _ => h64) (by simp [instrEffect, hp, hw, hc])⟩
  case notExtended =>
    have hh := highHalfGuards_notExtended hp he
    exact ⟨exec_of_refusal (guards_anyWidth rfl rfl h) (effect_mfhgc0_refused rt hh),
      exec_of_refusal (guards_anyWidth rfl rfl h) (effect_mthgc0_refused rt hh)⟩
  case noXpa =>
    have hh := highHalfGuards_noXpa hp he hx hn
    exact ⟨exec_of_refusal (guards_anyWidth rfl rfl h) (effect_mfhgc0_refused rt hh),
      exec_of_refusal (guards_anyWidth rfl rfl h) (effect_mthgc0_refused rt hh)⟩

theorem indexedWrite_beyond {c : Ctx} {g : Bool} {gid : BitVec 8} {s : State} (h : s.tlbEntries c ≤ s.idx c) :
    indexedWrite c g gid s = refuse .indexBeyondTlb := if_pos h

theorem invalidation_beyond {c : Ctx} {test : TlbEntry → Bool} {s : State} (h4 : (s.cp0 c).mt = 4)
    (h : s.tlbEntries c ≤ s.idx c) : invalidation c test s = refuse .indexBeyondTlb := by
  simp [invalidation, invRange, h4, h, refuse]

/-- Settles O25: the index test stands before the effect of each of these instructions. -/
theorem indexBeyondTheTlbIsRefused : Obligations.IndexBeyondTheTlbIsRefused := by
  refine ⟨fun s h hidx => ⟨?_, ?_, fun h4 hie => ⟨?_, ?_⟩⟩, fun s h hidx => ⟨?_, ?_, fun h4 hie => ⟨?_, ?_⟩⟩⟩
  · exact exec_of_refusal (guards_guestTlb rfl h nofun) (if_pos hidx)
  · exact exec_of_refusal (guards_guestTlb rfl h nofun) (indexedWrite_beyond hidx)
  · exact exec_of_refusal (guards_guestTlb rfl h fun _ => hie) (invalidation_beyond h4 hidx)
  · exact exec_of_refusal (guards_guestTlb rfl h fun _ => hie) (invalidation_beyond h4 hidx)
  · exact exec_of_refusal (guards_baseTlb rfl h nofun) (if_pos hidx)
  · exact exec_of_refusal (guards_baseTlb rfl h nofun) (indexedWrite_beyond hidx)
  · exact exec_of_refusal (guards_baseTlb rfl h fun _ => hie) (invalidation_beyond h4 hidx)
  · exact exec_of_refusal (guards_baseTlb rfl h fun _ => hie) (invalidation_beyond h4 hidx)

end Sys2Proof.Machine
end

section
/-! What a completed instruction has changed. `Effect` lists once what an effect can do; the frames (O12, O14, O15), the
read-only configuration fields (O13) and the invariant of well-formed states (O10) are case analyses over it. -/

namespace Sys2Proof.Machine

/-! ### What an effect can do -/

/-- What the effect of an instruction can do to a state, where it completes. -/
inductive Effect (s : State) (i : Instr) : State → Prop where
  /-- A move from the guest (R101). -/
  | fromGuest {rt rd sel : Nat} (v : Word) (hf : family i = .guestMove)
      (hi : i = .dmfgc0 rt rd sel ∨ i = .mfgc0 rt rd sel ∨ i = .mfhgc0 rt rd sel) :
      Effect s i ((s.observe rd sel).setGpr rt v)
  /-- A move to the guest (R102). -/
  | toGuest {rd sel : Nat} {new m : Word} {u : State} (hf : family i = .guestMove)
      (h : s.guestWrite rd sel new m = .ok u) : Effect s i u
  /-- An invalidation (R133, R134). -/
  | marked (range : List Nat) (test : TlbEntry → Bool) : Effect s i (invalidateWhere (instrCtx i s) range test s)
  /-- A probe (R135, R163). -/
  | probed (v : Half) : Effect s i (s.setIndex (instrCtx i s) v)
  /-- A read of an entry that is shown as invalid (R136, R164); in guest mode TLBR leaves `GuestCtl1`. -/
  | readInvalid (ctl1 : Half) (hi : i = .tlbgr ∨ i = .tlbr)
      (hx : i = .tlbr → s.isGuestMode = true → ctl1 = s.guestCtl1) :
      Effect s i { loadInvalid (instrCtx i s) s with guestCtl1 := ctl1 }
  /-- A read of a valid entry (R136, R164); in guest mode TLBR leaves `GuestCtl1`. -/
  | readEntry (e : TlbEntry) (ctl1 : Half) (hi : i = .tlbgr ∨ i = .tlbr)
      (hx : i = .tlbr → s.isGuestMode = true → ctl1 = s.guestCtl1) :
      Effect s i { loadEntry (instrCtx i s) e s with guestCtl1 := ctl1 }
  /-- A write at Index (R137, R165). -/
  | wrote {n : Nat} {g : Bool} {gid : BitVec 8} {u : State} (hgid : gid = s.rid ∨ gid = s.curGid)
      (h : checkedWrite (instrCtx i s) n g gid s = .ok u) : Effect s i u
  /-- A write at Random (R138, R166). -/
  | wroteAtRandom {n : Nat} {g : Bool} {gid : BitVec 8} {u : State} (hgid : gid = s.rid ∨ gid = s.curGid)
      (h : checkedWrite (instrCtx i s) n g gid s = .ok u) : Effect s i (u.randomMoved (instrCtx i s))

theorem invalidation_ok {c : Ctx} {test : TlbEntry → Bool} {s u : State} (h : invalidation c test s = .ok u) :
    ∃ range, invRange c s = .ok range ∧ u = invalidateWhere c range test s := by
  unfold invalidation at h
  split at h
  next => cases h
  next range hr => exact ⟨range, hr, (Except.ok.inj h).symm⟩

/-- TLBR in root mode changes `GuestCtl1` only. -/
theorem updateRidInRoot_eq (s : State) (v : BitVec 8) :
    s.updateRidInRoot v = { s with guestCtl1 := (s.updateRidInRoot v).guestCtl1 } := by
  unfold State.updateRidInRoot
  split
  · exact updateRid_eq s v
  · rfl

/-- TLBR in guest mode leaves `GuestCtl1`. -/
theorem updateRidInRoot_of_guest {s : State} (h : s.isGuestMode = true) (v : BitVec 8) : s.updateRidInRoot v = s := by
  simp [State.updateRidInRoot, isRootMode_eq, h]

theorem isGuestMode_loadEntry (c : Ctx) (e : TlbEntry) (s : State) : (loadEntry c e s).isGuestMode = s.isGuestMode :=
  (KeepsModeRegs.loadEntry c e s).isGuestMode

theorem isGuestMode_loadInvalid (c : Ctx) (s : State) : (loadInvalid c s).isGuestMode = s.isGuestMode :=
  (KeepsModeRegs.loadInvalid c s).isGuestMode

theorem effect_tlbgr {s u : State} (h : instrEffect .tlbgr s = .ok u) : Effect s .tlbgr u := by
  simp only [instrEffect] at h
  split at h
  · cases h
  split at h <;> cases h <;> rw [updateRid_eq]
  · exact .readInvalid _ (.inl rfl) nofun
  · exact .readEntry _ _ (.inl rfl) nofun

theorem effect_tlbr {s u : State} (h : instrEffect .tlbr s = .ok u) : Effect s .tlbr u := by
  simp only [instrEffect] at h
  split at h
  · cases h
  split at h
  · cases h
    rw [updateRidInRoot_eq]
    refine .readInvalid _ (.inr rfl) fun _ hg => ?_
    rw [updateRidInRoot_of_guest ((isGuestMode_loadInvalid ..).trans hg)]
    exact setCp0_guestCtl1 ..
  split at h
  · cases h
    exact .readInvalid (loadInvalid s.cur s).guestCtl1 (.inr rfl) fun _ _ => setCp0_guestCtl1 ..
  · cases h
    rw [updateRidInRoot_eq]
    refine .readEntry _ _ (.inr rfl) fun _ hg => ?_
    rw [updateRidInRoot_of_guest ((isGuestMode_loadEntry ..).trans hg)]
    exact setCp0_guestCtl1 ..

theorem effect_moveFrom {s u : State} {i : Instr} {rt rd sel : Nat} {f : Word → Word}
    (h : moveFrom rt rd sel f s = .ok u) (hf : family i = .guestMove)
    (hi : i = .dmfgc0 rt rd sel ∨ i = .mfgc0 rt rd sel ∨ i = .mfhgc0 rt rd sel) : Effect s i u := by
  obtain ⟨-, rfl⟩ := moveFrom_next h
  exact .fromGuest _ hf hi

theorem effect_invalidation {s u : State} {i : Instr} {test : TlbEntry → Bool}
    (h : invalidation (instrCtx i s) test s = .ok u) : Effect s i u := by
  obtain ⟨range, -, rfl⟩ := invalidation_ok h
  exact .marked range test

theorem effect_probe {s u : State} {i : Instr} {found : List Nat} (h : probe (instrCtx i s) found s = .ok u) :
    Effect s i u := by
  obtain ⟨v, -, rfl⟩ := probe_ok h
  exact .probed v

theorem effect_indexedWrite {s u : State} {i : Instr} {g : Bool} {gid : BitVec 8}
    (h : indexedWrite (instrCtx i s) g gid s = .ok u) (hgid : gid = s.rid ∨ gid = s.curGid) : Effect s i u :=
  .wrote hgid (indexedWrite_ok h).2

theorem effect_randomWrite {s u : State} {i : Instr} {g : Bool} {gid : BitVec 8}
    (h : randomWrite (instrCtx i s) g gid s = .ok u) (hgid : gid = s.rid ∨ gid = s.curGid) : Effect s i u := by
  obtain ⟨-, w, hw, rfl⟩ := randomWrite_ok h
  exact .wroteAtRandom hgid hw

/-- A completed effect is one of those. -/
theorem effect_of_ok {i : Instr} {s u : State} (h : instrEffect i s = .ok u) : Effect s i u := by
  cases i with
  | dmfgc0 rt rd sel =>
    simp only [instrEffect] at h
    split at h
    · cases h
    · exact effect_moveFrom h rfl (.inl rfl)
  | mfgc0 rt rd sel =>
    simp only [instrEffect] at h
    split at h <;> exact effect_moveFrom h rfl (.inr (.inl rfl))
  | mfhgc0 rt rd sel =>
    have h := (behind_eq_ok.1 h).2
    split at h <;> exact effect_moveFrom h rfl (.inr (.inr rfl))
  | dmtgc0 rt rd sel =>
    simp only [instrEffect] at h
    split at h
    · cases h
    split at h
    · cases h
    · exact .toGuest rfl h
  | mtgc0 rt rd sel =>
    simp only [instrEffect] at h
    split at h
    · cases h
    split at h <;> exact .toGuest rfl h
  | mthgc0 rt rd sel =>
    have h := (behind_eq_ok.1 h).2
    split at h <;> exact .toGuest rfl h
  | tlbginv => exact effect_invalidation h
  | tlbginvf => exact effect_invalidation h
  | tlbgp => exact effect_probe h
  | tlbgr => exact effect_tlbgr h
  | tlbgwi => exact effect_indexedWrite h (.inl rfl)
  | tlbgwr => exact effect_randomWrite h (.inl rfl)
  | tlbinv => exact effect_invalidation h
  | tlbinvf => exact effect_invalidation h
  | tlbp => exact effect_probe h
  | tlbr => exact effect_tlbr h
  | tlbwi => exact effect_indexedWrite h (.inr rfl)
  | tlbwr => exact effect_randomWrite h (.inr rfl)

/-! ### Frames -/

/-- `u` is `s` as far as one context, the general registers, `GuestCtl1` and the draw counter do not tell them apart. -/
structure KeepsOutside (c : Ctx) (s u : State) : Prop where
  mem : u.mem = s.mem
  cfg : u.cfg = s.cfg
  guestCtl0 : u.guestCtl0 = s.guestCtl0
  debugReg : u.debugReg = s.debugReg
  pc : u.pc = s.pc
  cp0 : ∀ d, d ≠ c → u.cp0 d = s.cp0 d
  tlb : ∀ d, d ≠ c → u.tlb d = s.tlb d

namespace KeepsOutside
variable {c : Ctx} {s u : State}

theorem refl (c : Ctx) (s : State) : KeepsOutside c s s := ⟨rfl, rfl, rfl, rfl, rfl, fun _ _ => rfl, fun _ _ => rfl⟩

theorem setCp0 (h : KeepsOutside c s u) (k : Cp0) : KeepsOutside c s (u.setCp0 c k) :=
  ⟨by simp [h.mem], by simp [h.cfg], by simp [h.guestCtl0], by simp [h.debugReg], by simp [h.pc],
   fun d hd => (setCp0_cp0_other _ _ _ _ hd).trans (h.cp0 d hd), fun d hd => (setCp0_tlb ..).trans (h.tlb d hd)⟩

theorem setTlb (h : KeepsOutside c s u) (t : List TlbEntry) : KeepsOutside c s (u.setTlb c t) :=
  ⟨by simp [h.mem], by simp [h.cfg], by simp [h.guestCtl0], by simp [h.debugReg], by simp [h.pc],
   fun d hd => (setTlb_cp0 ..).trans (h.cp0 d hd), fun d hd => (setTlb_tlb_other _ _ _ _ hd).trans (h.tlb d hd)⟩

theorem setGpr (h : KeepsOutside c s u) (r : Nat) (v : Word) : KeepsOutside c s (u.setGpr r v) :=
  ⟨by simp [h.mem], by simp [h.cfg], by simp [h.guestCtl0], by simp [h.debugReg], by simp [h.pc],
   fun d hd => (setGpr_cp0 ..).trans (h.cp0 d hd), fun d hd => (setGpr_tlb ..).trans (h.tlb d hd)⟩

theorem withGuestCtl1 (h : KeepsOutside c s u) (v : Half) : KeepsOutside c s { u with guestCtl1 := v } :=
  ⟨h.mem, h.cfg, h.guestCtl0, h.debugReg, h.pc, h.cp0, h.tlb⟩

theorem withGuest (h : KeepsOutside .guest s u) (k : Cp0) : KeepsOutside .guest s { u with guest := k } :=
  h.setCp0 k

theorem observe (s : State) (rd sel : Nat) : KeepsOutside .guest s (s.observe rd sel) := by
  rcases observe_cases s rd sel with h | ⟨-, h⟩ <;> rw [h]
  · exact refl _ _
  · exact (refl _ _).withGuest _

theorem checkedWrite {n : Nat} {g : Bool} {gid : BitVec 8} (h : checkedWrite c n g gid s = .ok u) :
    KeepsOutside c s u := by
  rw [checkedWrite_frame h]
  exact (refl c s).setTlb _

end KeepsOutside

theorem instrCtx_of_guestMove {i : Instr} (s : State) (h : family i = .guestMove) : instrCtx i s = .guest := by
  simp [instrCtx, h]

theorem instrCtx_of_baseTlb {i : Instr} (s : State) (h : family i = .baseTlb) : instrCtx i s = s.cur := by
  simp [instrCtx, h]

theorem instrCtx_of_not_baseTlb {i : Instr} (s : State) (h : family i ≠ .baseTlb) : instrCtx i s = .guest := by
  unfold instrCtx
  split
  next hi => exact absurd hi h
  next => rfl

/-- An effect leaves everything outside its instruction's context alone, but for the general registers and
`GuestCtl1`. -/
theorem Effect.keepsOutside {i : Instr} {s u : State} (h : Effect s i u) : KeepsOutside (instrCtx i s) s u := by
  cases h with
  | fromGuest v hf hi =>
    rw [instrCtx_of_guestMove s hf]
    exact (KeepsOutside.observe s _ _).setGpr _ _
  | toGuest hf h =>
    rw [instrCtx_of_guestMove s hf, guestWrite_frame h]
    exact (KeepsOutside.refl _ s).withGuest _
  | marked range test => exact (KeepsOutside.refl _ s).setTlb _
  | probed v => exact (KeepsOutside.refl _ s).setCp0 _
  | readInvalid ctl1 hi hx => exact ((KeepsOutside.refl _ s).setCp0 _).withGuestCtl1 _
  | readEntry e ctl1 hi hx => exact ((KeepsOutside.refl _ s).setCp0 _).withGuestCtl1 _
  | wrote hgid h => exact KeepsOutside.checkedWrite h
  | wroteAtRandom hgid h => exact (KeepsOutside.checkedWrite h).setCp0 _

theorem observe_gpr (s : State) (rd sel : Nat) : (s.observe rd sel).gpr = s.gpr := by
  rcases observe_cases s rd sel with h | ⟨-, h⟩ <;> rw [h]

theorem observe_guestCtl1 (s : State) (rd sel : Nat) : (s.observe rd sel).guestCtl1 = s.guestCtl1 := by
  rcases observe_cases s rd sel with h | ⟨-, h⟩ <;> rw [h]

theorem checkedWrite_gpr {c : Ctx} {n : Nat} {g : Bool} {gid : BitVec 8} {s u : State}
    (h : checkedWrite c n g gid s = .ok u) : u.gpr = s.gpr := by rw [checkedWrite_frame h, setTlb_gpr]

theorem checkedWrite_guestCtl1 {c : Ctx} {n : Nat} {g : Bool} {gid : BitVec 8} {s u : State}
    (h : checkedWrite c n g gid s = .ok u) : u.guestCtl1 = s.guestCtl1 := by rw [checkedWrite_frame h, setTlb_guestCtl1]

theorem checkedWrite_cp0 {c d : Ctx} {n : Nat} {g : Bool} {gid : BitVec 8} {s u : State}
    (h : checkedWrite c n g gid s = .ok u) : u.cp0 d = s.cp0 d := by rw [checkedWrite_frame h, setTlb_cp0]

/-- The general registers are as before, or the instruction is a move from the guest, which writes one (R21). -/
theorem Effect.gpr_cases {i : Instr} {s u : State} (h : Effect s i u) :
    u.gpr = s.gpr ∨ ∃ rt rd sel v, (i = .dmfgc0 rt rd sel ∨ i = .mfgc0 rt rd sel ∨ i = .mfhgc0 rt rd sel) ∧
      u = (s.observe rd sel).setGpr rt v := by
  cases h with
  | fromGuest v hf hi => exact .inr ⟨_, _, _, v, hi, rfl⟩
  | toGuest hf h => rw [guestWrite_frame h]; exact .inl rfl
  | marked range test => exact .inl (setTlb_gpr ..)
  | probed v => exact .inl (setCp0_gpr ..)
  | readInvalid ctl1 hread hx => exact .inl (setCp0_gpr ..)
  | readEntry e ctl1 hread hx => exact .inl (setCp0_gpr ..)
  | wrote hgid h => exact .inl (checkedWrite_gpr h)
  | wroteAtRandom hgid h => exact .inl ((setCp0_gpr ..).trans (checkedWrite_gpr h))

/-- Only a move from the guest changes a general register. -/
theorem Effect.gpr {i : Instr} {s u : State} (h : Effect s i u)
    (hi : ∀ rt rd sel, i ≠ .dmfgc0 rt rd sel ∧ i ≠ .mfgc0 rt rd sel ∧ i ≠ .mfhgc0 rt rd sel) : u.gpr = s.gpr := by
  obtain hgpr | ⟨rt, rd, sel, v, hmove, -⟩ := h.gpr_cases
  · exact hgpr
  · obtain ⟨hd, hm, hmh⟩ := hi rt rd sel
    exact absurd hmove (by simp [hd, hm, hmh])

/-- No effect changes general register 0. -/
theorem Effect.gpr_zero {i : Instr} {s u : State} (h : Effect s i u) : u.gpr[0] = s.gpr[0] := by
  obtain hgpr | ⟨rt, rd, sel, v, -, rfl⟩ := h.gpr_cases
  · rw [hgpr]
  · rw [setGpr_gpr_zero, observe_gpr]

/-- Only TLBGR, and TLBR in root mode, change `GuestCtl1` (R30, R164). -/
theorem Effect.guestCtl1 {i : Instr} {s u : State} (h : Effect s i u) (hgr : i ≠ .tlbgr)
    (hr : i = .tlbr → s.isGuestMode = true) : u.guestCtl1 = s.guestCtl1 := by
  cases h with
  | fromGuest v hf hmove => rw [setGpr_guestCtl1, observe_guestCtl1]
  | toGuest hf h => rw [guestWrite_frame h]
  | marked range test => exact setTlb_guestCtl1 ..
  | probed v => exact setCp0_guestCtl1 ..
  | readInvalid ctl1 hread hx =>
    have htlbr := hread.resolve_left hgr
    exact hx htlbr (hr htlbr)
  | readEntry e ctl1 hread hx =>
    have htlbr := hread.resolve_left hgr
    exact hx htlbr (hr htlbr)
  | wrote hgid h => exact checkedWrite_guestCtl1 h
  | wroteAtRandom hgid h => exact (setCp0_guestCtl1 ..).trans (checkedWrite_guestCtl1 h)

/-- A completed instruction, seen through its effect. -/
theorem exec_effect {i : Instr} {s t : State} (h : exec i s = .next t) :
    instrGuards i s = .ok () ∧ ∃ u, Effect s i u ∧ t = u.advance := by
  obtain ⟨hg, u, hu, rfl⟩ := exec_next h
  exact ⟨hg, u, effect_of_ok hu, rfl⟩

/-- Settles O12: what every effect leaves alone, and the end that moves `pc` on. -/
theorem everyInstructionKeepsMemoryAndAdvances : Obligations.EveryInstructionKeepsMemoryAndAdvances := by
  intro i s t h
  obtain ⟨-, u, hu, rfl⟩ := exec_effect h
  have hk := hu.keepsOutside
  exact ⟨fun a => by rw [advance_mem, hk.mem], hk.cfg, hk.guestCtl0, hk.debugReg, by rw [advance_pc, hk.pc]⟩

/-- Settles O15: each effect keeps to the context of its family, and only two kinds of effect reach beyond it. -/
theorem rootModeInstructionsKeepToTheirContext : Obligations.RootModeInstructionsKeepToTheirContext := by
  intro i s t hroot h
  obtain ⟨-, u, hu, rfl⟩ := exec_effect h
  have hk := hu.keepsOutside
  refine ⟨fun hi => ?_, fun hi => ?_, fun hgr hr => hu.guestCtl1 hgr fun hi => absurd hi hr, fun hi => hu.gpr hi⟩
  · have hctx : instrCtx i s = .root :=
      (instrCtx_of_baseTlb s ((family_baseTlb_iff i).2 hi)).trans (cur_of_root hroot)
    rw [hctx] at hk
    exact ⟨hk.cp0 .guest (by decide), hk.tlb .guest (by decide)⟩
  · have hctx : instrCtx i s = .guest := instrCtx_of_not_baseTlb s (mt (family_baseTlb_iff i).1 hi)
    rw [hctx] at hk
    exact ⟨hk.cp0 .root (by decide), hk.tlb .root (by decide)⟩

/-- Guards that pass in guest mode, where the guest does not implement the module, are those of a base instruction. -/
theorem family_of_guards_guest {i : Instr} {s : State} (hguest : s.isGuestMode = true) (hvz : s.guest.vz = false)
    (h : instrGuards i s = .ok ()) : family i = .baseTlb := by
  have hcur : s.cur = .guest := cur_of_guest hguest
  unfold instrGuards at h
  split at h
  next =>
    obtain ⟨-, -, hv, -⟩ := guestMoveGuards_ok.1 h
    simp [hcur, hvz] at hv
  next =>
    obtain ⟨-, -, hv, -⟩ := tlbgGuards_ok.1 h
    simp [hcur, hvz] at hv
  next hf => exact hf

/-- Settles O14: in guest mode only the base instructions complete, and they work on the guest context. -/
theorem guestModeStepLeavesRootAlone : Obligations.GuestModeStepLeavesRootAlone := by
  intro s t hguest hvz h
  obtain ⟨i, hi⟩ := exec_of_step h
  obtain ⟨hg, u, hu, rfl⟩ := exec_effect hi
  have hf : family i = .baseTlb := family_of_guards_guest hguest hvz hg
  have hk := hu.keepsOutside
  rw [instrCtx_of_baseTlb s hf, cur_of_guest hguest] at hk
  refine ⟨hk.cp0 .root (by decide), hk.tlb .root (by decide), hk.guestCtl0, hu.guestCtl1 ?_ fun _ => hguest,
    hk.debugReg, hu.gpr fun rt rd sel => ⟨?_, ?_, ?_⟩⟩ <;>
  · rintro rfl
    cases hf

/-! ### The read-only configuration fields (R42, R43, R48) -/

/-- The configuration fields that R48 makes constant. -/
structure SameConfig (k k' : Cp0) : Prop where
  mt : k'.mt = k.mt
  ie : k'.ie = k.ie
  vz : k'.vz = k.vz
  lpa : k'.lpa = k.lpa
  mmuSize : k'.config1.extractLsb' 25 6 = k.config1.extractLsb' 25 6
  config4Low : k'.config4.extractLsb' 0 8 = k.config4.extractLsb' 0 8

/-- `k'` agrees with `k` in the bits no move-to changes. -/
def SameReadOnly (k k' : Cp0) : Prop :=
  ∀ r b, (readOnlyBits k r).getLsbD b = true → (k'.get r).getLsbD b = (k.get r).getLsbD b

theorem SameConfig.of_eq {k k' : Cp0} (h0 : k'.config = k.config) (h1 : k'.config1 = k.config1)
    (h3 : k'.config3 = k.config3) (h4 : k'.config4 = k.config4) : SameConfig k k' :=
  ⟨by rw [Cp0.mt, Cp0.mt, h0], by rw [Cp0.ie, Cp0.ie, h4], by rw [Cp0.vz, Cp0.vz, h3], by rw [Cp0.lpa, Cp0.lpa, h3],
   by rw [h1], by rw [h4]⟩

/-- A field of a 32-bit register whose image agrees in the field's bits. -/
theorem extract_eq_of_image {x y : Half} {lo len : Nat} (hl : lo + len ≤ 32)
    (h : ∀ b, b < len → (x.setWidth 64).getLsbD (lo + b) = (y.setWidth 64).getLsbD (lo + b)) :
    x.extractLsb' lo len = y.extractLsb' lo len := by
  ext b hb
  have hbit := h b hb
  rw [BitVec.getLsbD_setWidth, BitVec.getLsbD_setWidth, decide_eq_true (show lo + b < 64 by omega)] at hbit
  simpa using hbit

theorem readOnlyBits_config (k : Cp0) : readOnlyBits k .config = 0x00000380#64 := rfl
theorem readOnlyBits_config1 (k : Cp0) : readOnlyBits k .config1 = 0x7E000000#64 := rfl
theorem readOnlyBits_config3 (k : Cp0) : readOnlyBits k .config3 = 0x00800080#64 := rfl
theorem readOnlyBits_config4 (k : Cp0) : readOnlyBits k .config4 = 0x600000FF#64 := rfl

theorem SameReadOnly.sameConfig {k k' : Cp0} (h : SameReadOnly k k') : SameConfig k k' where
  mt := congrArg BitVec.toNat (extract_eq_of_image (by decide) fun b hb =>
    h .config _ (by rw [readOnlyBits_config]; interval_cases b <;> decide))
  ie := congrArg BitVec.toNat (extract_eq_of_image (by decide) fun b hb =>
    h .config4 _ (by rw [readOnlyBits_config4]; interval_cases b <;> decide))
  vz := by simpa [Cp0.get, Cp0.vz] using h .config3 23 (by rw [readOnlyBits_config3]; decide)
  lpa := by simpa [Cp0.get, Cp0.lpa] using h .config3 7 (by rw [readOnlyBits_config3]; decide)
  mmuSize := extract_eq_of_image (by decide) fun b hb =>
    h .config1 _ (by rw [readOnlyBits_config1]; interval_cases b <;> decide)
  config4Low := extract_eq_of_image (by decide) fun b hb =>
    h .config4 _ (by rw [readOnlyBits_config4]; interval_cases b <;> decide)

/-- The read-only registers read back what is stored in their read-only bits: these lie below the register's width. -/
theorem get_put_readOnly (k j : Cp0) (r : RegName) (v : Word) (b : Nat) (h : (readOnlyBits j r).getLsbD b = true) :
    ((k.put r v).get r).getLsbD b = v.getLsbD b := by
  have low : ∀ m : Word, m.getLsbD b = true → (m.setWidth 32).setWidth 64 = m →
      ((v.setWidth 32).setWidth 64).getLsbD b = v.getLsbD b := by
    intro m hm hlow
    rw [← hlow, getLsbD_low_half, Bool.and_eq_true] at hm
    rw [getLsbD_low_half, hm.1, Bool.true_and]
  cases r with
  | config => exact low _ h (by rw [readOnlyBits_config]; decide)
  | config1 => exact low _ h (by rw [readOnlyBits_config1]; decide)
  | config3 => exact low _ h (by rw [readOnlyBits_config3]; decide)
  | config4 => exact low _ h (by rw [readOnlyBits_config4]; decide)
  | entryHi => rfl
  | _ => simp [readOnlyBits] at h

/-- Count and Random have no read-only bit. -/
theorem readOnlyBits_observed (k : Cp0) {rd sel : Nat} (h : isCount rd sel = true ∨ isRandom rd sel = true) :
    readOnlyBits k (regName rd sel) = 0#64 := by
  simp only [isCount, isRandom, beq_iff_eq] at h
  rcases h with h | h <;> rw [h] <;> rfl

theorem observe_sameReadOnly (s : State) (rd sel : Nat) : SameReadOnly s.guest (s.observe rd sel).guest := by
  intro r b hb
  rcases observe_cases s rd sel with h | ⟨hc, h⟩ <;> rw [h]
  have hr : r ≠ regName rd sel := by
    rintro rfl
    simp [readOnlyBits_observed _ hc] at hb
  rw [get_put_other _ _ _ _ hr]

/-- A write under a mask assigns no read-only bit. -/
theorem writeMask_readOnly (s : State) (rd sel : Nat) (m : Word) (b : Nat)
    (hb : (readOnlyBits s.guest (regName rd sel)).getLsbD b = true) : (s.writeMask rd sel m).getLsbD b = false := by
  have hlt : b < 64 := BitVec.lt_of_getLsbD hb
  rw [getLsbD_writeMask]
  simp [changedBit, State.writableBits, hb, hlt]

theorem guestWrite_sameReadOnly {s u : State} {rd sel : Nat} {new m : Word} (h : s.guestWrite rd sel new m = .ok u) :
    SameReadOnly s.guest u.guest := by
  intro r b hb
  rw [guestWrite_eq] at h
  split at h
  · cases h
  split at h <;> cases h
  · by_cases hr : r = regName rd sel
    · subst hr
      rw [get_put_readOnly _ _ _ _ _ hb, getLsbD_mergeBits, writeMask_readOnly _ _ _ _ _ hb]
      rfl
    · rw [get_put_other _ _ _ _ hr]
  · rfl

@[simp] theorem invalidateWhere_cp0 (c d : Ctx) (range : List Nat) (test : TlbEntry → Bool) (s : State) :
    (invalidateWhere c range test s).cp0 d = s.cp0 d := setTlb_cp0 ..

theorem setIndex_cp0_same (s : State) (c : Ctx) (v : Half) : (s.setIndex c v).cp0 c = { s.cp0 c with index := v } :=
  setCp0_cp0_same ..

theorem randomMoved_cp0_same (s : State) (c : Ctx) :
    (s.randomMoved c).cp0 c = { s.cp0 c with random := Config.freeRandomAfter s.draws } := setCp0_cp0_same ..

@[simp] theorem withGuestCtl1_cp0 (s : State) (c : Ctx) (v : Half) :
    ({ s with guestCtl1 := v } : State).cp0 c = s.cp0 c := by
  cases c <;> rfl

@[simp] theorem withGuestCtl1_tlb (s : State) (c : Ctx) (v : Half) :
    ({ s with guestCtl1 := v } : State).tlb c = s.tlb c := by
  cases c <;> rfl

theorem loadEntry_sameConfig (c : Ctx) (e : TlbEntry) (s : State) : SameConfig (s.cp0 c) ((loadEntry c e s).cp0 c) := by
  rw [loadEntry, setCp0_cp0_same]
  exact .of_eq rfl rfl rfl rfl

theorem loadInvalid_sameConfig (c : Ctx) (s : State) : SameConfig (s.cp0 c) ((loadInvalid c s).cp0 c) := by
  rw [loadInvalid, setCp0_cp0_same]
  exact .of_eq rfl rfl rfl rfl

/-- An effect keeps the configuration fields of the context it works on. -/
theorem Effect.sameConfig {i : Instr} {s u : State} (h : Effect s i u) :
    SameConfig (s.cp0 (instrCtx i s)) (u.cp0 (instrCtx i s)) := by
  cases h with
  | @fromGuest rt rd sel v hf hi =>
    rw [instrCtx_of_guestMove s hf, setGpr_cp0]
    exact (observe_sameReadOnly s rd sel).sameConfig
  | toGuest hf h =>
    rw [instrCtx_of_guestMove s hf]
    exact (guestWrite_sameReadOnly h).sameConfig
  | marked range test =>
    rw [invalidateWhere_cp0]
    exact .of_eq rfl rfl rfl rfl
  | probed v =>
    rw [setIndex_cp0_same]
    exact .of_eq rfl rfl rfl rfl
  | readInvalid ctl1 hi hx =>
    rw [withGuestCtl1_cp0]
    exact loadInvalid_sameConfig _ s
  | readEntry e ctl1 hi hx =>
    rw [withGuestCtl1_cp0]
    exact loadEntry_sameConfig _ e s
  | wrote hgid h =>
    rw [checkedWrite_cp0 h]
    exact .of_eq rfl rfl rfl rfl
  | wroteAtRandom hgid h =>
    rw [randomMoved_cp0_same, checkedWrite_cp0 h]
    exact .of_eq rfl rfl rfl rfl

/-- An effect keeps the configuration fields of both contexts. -/
theorem Effect.sameConfig_all {i : Instr} {s u : State} (h : Effect s i u) (c : Ctx) :
    SameConfig (s.cp0 c) (u.cp0 c) := by
  by_cases hc : c = instrCtx i s
  · rw [hc]
    exact h.sameConfig
  · rw [h.keepsOutside.cp0 c hc]
    exact .of_eq rfl rfl rfl rfl

/-- Settles O13: the writable masks exclude these bits, and no other effect touches their registers. -/
theorem configurationFieldsAreConstant : Obligations.ConfigurationFieldsAreConstant := by
  intro i s t c h
  obtain ⟨-, u, hu, rfl⟩ := exec_effect h
  have hc := hu.sameConfig_all c
  rw [advance_cp0]
  exact ⟨hc.mt, hc.ie, hc.vz, hc.lpa, hc.mmuSize, hc.config4Low, by
    rw [State.g1, State.g1, advance_guestCtl0, hu.keepsOutside.guestCtl0]⟩

/-! ### Well-formed states (O10) -/

theorem ctxOk_iff (s : State) (c : Ctx) :
    ctxOk s c = true ↔
      (s.tlb c).length = s.tlbEntries c ∧ (∀ e ∈ s.tlb c, entryFits s.cfg e = true) ∧
        (¬(s.cp0 c).mt = 1 ∨ (ctxConfig s.cfg c).ftlbWays = 0 ∧ (ctxConfig s.cfg c).ftlbSets = 0) ∧
        ((s.cp0 c).hasInvalid = true ∨ (s.cp0 c).entryHi.getLsbD 10 = false) ∧ Other.wf (s.cp0 c).other = true := by
  simp [ctxOk, and_assoc]

theorem wf_iff (s : State) :
    s.wf = true ↔
      s.pc.toNat % 4 = 0 ∧ s.gpr[0] = 0#64 ∧ s.root.vz = true ∧ s.guest.vz = false ∧ configOk s.cfg = true ∧
        (∀ c, ctxOk s c = true) ∧ Memory.wf s.mem = true := by
  have hctx : (∀ c, ctxOk s c = true) ↔ ctxOk s .root = true ∧ ctxOk s .guest = true :=
    ⟨fun h => ⟨h .root, h .guest⟩, fun h c => by cases c; exacts [h.1, h.2]⟩
  simp [State.wf, State.pcAligned, hctx, and_assoc]

/-! #### Entries that fit the implemented widths (R45) -/

theorem entryFits_iff (cfg : Config) (e : TlbEntry) :
    entryFits cfg e = true ↔
      e.vpn2.toNat < 2 ^ (cfg.segBits - 13) ∧ e.asid.toNat < 2 ^ cfg.asidBits ∧ e.mask.toNat < 2 ^ cfg.maskBits ∧
        e.guestId.toNat < 2 ^ cfg.guestIdBits := by
  simp [entryFits, and_assoc]

/-- A value under a low mask fits the mask's width. -/
theorem toNat_and_lowMask_lt {w : Nat} (v : BitVec w) (n : Nat) : (v &&& lowMask w n).toNat < 2 ^ n := by
  have hmask : (lowMask w n).toNat ≤ 2 ^ n - 1 := by
    rw [lowMask, BitVec.toNat_ofNat]
    exact Nat.mod_le _ _
  have hpos : 0 < 2 ^ n := by positivity
  have hand : (v &&& lowMask w n).toNat ≤ (lowMask w n).toNat := by
    rw [BitVec.toNat_and]
    exact Nat.and_le_right
  omega

/-- Clearing bits under a mask makes a value no larger. -/
theorem toNat_clearUnder_le {w : Nat} (clears : Bool) (v : BitVec w) (mask : BitVec 16) :
    (clearUnder clears v mask).toNat ≤ v.toNat := by
  unfold clearUnder
  split
  · rw [BitVec.toNat_and]
    exact Nat.and_le_left
  · exact Nat.le_refl _

theorem entryFits_entry {s : State} {c : Ctx} (h : ∀ e ∈ s.tlb c, entryFits s.cfg e = true) (n : Nat) :
    entryFits s.cfg (s.entry c n) = true := by
  unfold State.entry
  cases he : (s.tlb c)[n]? with
  | none => simp [entryFits_iff, TlbEntry.zero]
  | some e => exact h e (List.mem_of_getElem? he)

theorem id_fits (s : State) : s.id.toNat < 2 ^ s.cfg.guestIdBits := toNat_and_lowMask_lt _ _

theorem rid_fits (s : State) : s.rid.toNat < 2 ^ s.cfg.guestIdBits := toNat_and_lowMask_lt _ _

theorem curGid_fits (s : State) : s.curGid.toNat < 2 ^ s.cfg.guestIdBits := by
  unfold State.curGid
  split
  · exact id_fits s
  · exact rid_fits s

/-- The entry the registers describe fits: each field is read under its mask. -/
theorem entryFits_newEntry {c : Ctx} {g : Bool} {gid : BitVec 8} {s : State} {old : TlbEntry}
    (hgid : gid.toNat < 2 ^ s.cfg.guestIdBits) (hold : entryFits s.cfg old = true) :
    entryFits s.cfg (newEntry c g gid s old) = true := by
  refine (entryFits_iff _ _).2 ⟨?_, toNat_and_lowMask_lt _ _, toNat_and_lowMask_lt _ _, ?_⟩
  · exact Nat.lt_of_le_of_lt (toNat_clearUnder_le ..) (toNat_and_lowMask_lt _ _)
  · obtain ⟨-, -, -, holdGid⟩ := (entryFits_iff _ _).1 hold
    simp only [newEntry]
    split
    · exact hgid
    · exact holdGid

/-! #### Each part of a well-formed context, under an effect -/

theorem fits_mapIdx {cfg : Config} {l : List TlbEntry} {f : Nat → TlbEntry → TlbEntry}
    (hf : ∀ n e, entryFits cfg (f n e) = entryFits cfg e) (h : ∀ e ∈ l, entryFits cfg e = true) :
    ∀ e ∈ l.mapIdx f, entryFits cfg e = true := by
  intro e he
  obtain ⟨n, hn, rfl⟩ := List.mem_mapIdx.1 he
  rw [hf]
  exact h _ (List.getElem_mem hn)

theorem invalidateWhere_fits {c : Ctx} {range : List Nat} {test : TlbEntry → Bool} {s : State}
    (h : ∀ e ∈ s.tlb c, entryFits s.cfg e = true) :
    ∀ e ∈ (invalidateWhere c range test s).tlb c, entryFits s.cfg e = true := by
  rw [invalidateWhere, setTlb_tlb_same]
  exact fits_mapIdx (fun n e => by split <;> rfl) h

theorem invalidateOthers_fits {c : Ctx} {n : Nat} {s : State} (h : ∀ e ∈ s.tlb c, entryFits s.cfg e = true) :
    ∀ e ∈ (invalidateOthers c n s).tlb c, entryFits s.cfg e = true := by
  unfold invalidateOthers
  split
  · rw [setTlb_tlb_same]
    exact fits_mapIdx (fun n e => by split <;> rfl) h
  · exact h

theorem writeEntry_fits {c : Ctx} {n : Nat} {g : Bool} {gid : BitVec 8} {s : State}
    (hgid : gid.toNat < 2 ^ s.cfg.guestIdBits) (h : ∀ e ∈ s.tlb c, entryFits s.cfg e = true) :
    ∀ e ∈ (writeEntry c n g gid s).tlb c, entryFits s.cfg e = true := by
  intro e he
  rw [writeEntry, setTlb_tlb_same] at he
  obtain hmem | rfl := List.mem_or_eq_of_mem_set he
  · exact h e hmem
  · exact entryFits_newEntry hgid (entryFits_entry h n)

theorem length_invalidateOthers (c : Ctx) (n : Nat) (s : State) :
    ((invalidateOthers c n s).tlb c).length = (s.tlb c).length := by
  unfold invalidateOthers
  split <;> simp

/-- A checked write keeps the size of the TLB and the widths of its entries. -/
theorem checkedWrite_entries {c : Ctx} {n : Nat} {g : Bool} {gid : BitVec 8} {s u : State}
    (h : checkedWrite c n g gid s = .ok u) (hgid : gid.toNat < 2 ^ s.cfg.guestIdBits)
    (hfits : ∀ e ∈ s.tlb c, entryFits s.cfg e = true) :
    (u.tlb c).length = (s.tlb c).length ∧ ∀ e ∈ u.tlb c, entryFits s.cfg e = true := by
  have hlen : ((writeEntry c n g gid s).tlb c).length = (s.tlb c).length := by simp [writeEntry]
  have hcfg : (writeEntry c n g gid s).cfg = s.cfg := setTlb_cfg ..
  have hwrite := writeEntry_fits (n := n) (g := g) hgid hfits
  rcases checkedWrite_cases c n g gid s with h' | ⟨-, h'⟩ | ⟨-, h'⟩ <;> rw [h'] at h <;> cases h
  · exact ⟨hlen, hwrite⟩
  · refine ⟨(length_invalidateOthers ..).trans hlen, ?_⟩
    rw [← hcfg] at hwrite ⊢
    exact invalidateOthers_fits hwrite

/-- An effect keeps the size of its context's TLB and the widths of its entries. -/
theorem Effect.entries {i : Instr} {s u : State} {c : Ctx} (h : Effect s i u) (hc : c = instrCtx i s)
    (hfits : ∀ e ∈ s.tlb c, entryFits s.cfg e = true) :
    (u.tlb c).length = (s.tlb c).length ∧ ∀ e ∈ u.tlb c, entryFits s.cfg e = true := by
  have same : ∀ {v : State}, v.tlb c = s.tlb c →
      (v.tlb c).length = (s.tlb c).length ∧ ∀ e ∈ v.tlb c, entryFits s.cfg e = true := by
    intro v hv
    rw [hv]
    exact ⟨rfl, hfits⟩
  have gid : ∀ {x : BitVec 8}, x = s.rid ∨ x = s.curGid → x.toNat < 2 ^ s.cfg.guestIdBits := by
    rintro x (rfl | rfl)
    · exact rid_fits s
    · exact curGid_fits s
  subst hc
  cases h with
  | @fromGuest rt rd sel v hf hi =>
    refine same ?_
    rw [setGpr_tlb]
    rcases observe_cases s rd sel with h | ⟨-, h⟩ <;> rw [h]
    rfl
  | toGuest hf h =>
    refine same ?_
    rw [guestWrite_frame h]
    rfl
  | marked range test => exact ⟨by simp [invalidateWhere], invalidateWhere_fits hfits⟩
  | probed v => exact same (setCp0_tlb ..)
  | readInvalid ctl1 hi hx => exact same ((withGuestCtl1_tlb ..).trans (setCp0_tlb ..))
  | readEntry e ctl1 hi hx => exact same ((withGuestCtl1_tlb ..).trans (setCp0_tlb ..))
  | wrote hgid h => exact checkedWrite_entries h (gid hgid) hfits
  | wroteAtRandom hgid h =>
    rw [State.randomMoved, setCp0_tlb]
    exact checkedWrite_entries h (gid hgid) hfits

/-- What a loaded EntryHi has in bit 10: 0 from a valid entry, EHINV from an invalid one where it exists (R136, D14). -/
theorem loadEntry_ehinv (c : Ctx) (e : TlbEntry) (s : State) :
    ((loadEntry c e s).cp0 c).entryHi.getLsbD 10 = false := by
  rw [loadEntry, setCp0_cp0_same, getLsbD_makeHi]
  simp

theorem loadInvalid_ehinv {c : Ctx} {s : State} (h : (s.cp0 c).hasInvalid = false) :
    ((loadInvalid c s).cp0 c).entryHi.getLsbD 10 = false := by
  rw [loadInvalid, setCp0_cp0_same]
  simp [Cp0.invalidHi, h]

/-- Where EHINV does not exist a move keeps bit 10 of EntryHi. -/
theorem SameReadOnly.ehinv {k k' : Cp0} (h : SameReadOnly k k') (hi : k.hasInvalid = false) :
    k'.entryHi.getLsbD 10 = k.entryHi.getLsbD 10 :=
  h .entryHi 10 (by simp [readOnlyBits, hi, ehinvBit])

/-- Where EHINV does not exist in the context of an effect, it stays 0 (R39, D14). -/
theorem Effect.ehinv {i : Instr} {s u : State} {c : Ctx} (h : Effect s i u) (hc : c = instrCtx i s)
    (hinv : (s.cp0 c).hasInvalid = false) (hs : (s.cp0 c).entryHi.getLsbD 10 = false) :
    (u.cp0 c).entryHi.getLsbD 10 = false := by
  subst hc
  cases h with
  | @fromGuest rt rd sel v hf hi =>
    rw [instrCtx_of_guestMove s hf] at hinv hs ⊢
    rw [setGpr_cp0]
    exact ((observe_sameReadOnly s rd sel).ehinv hinv).trans hs
  | toGuest hf h =>
    rw [instrCtx_of_guestMove s hf] at hinv hs ⊢
    exact ((guestWrite_sameReadOnly h).ehinv hinv).trans hs
  | marked range test => rwa [invalidateWhere_cp0]
  | probed v => rwa [setIndex_cp0_same]
  | readInvalid ctl1 hi hx =>
    rw [withGuestCtl1_cp0]
    exact loadInvalid_ehinv hinv
  | readEntry e ctl1 hi hx =>
    rw [withGuestCtl1_cp0]
    exact loadEntry_ehinv _ e s
  | wrote hgid h => rwa [checkedWrite_cp0 h]
  | wroteAtRandom hgid h => rwa [randomMoved_cp0_same, checkedWrite_cp0 h]

theorem observe_other_wf {s : State} (rd sel : Nat) (h : Other.wf s.guest.other = true) :
    Other.wf (s.observe rd sel).guest.other = true := by
  rcases observe_cases s rd sel with he | ⟨-, he⟩ <;> rw [he]
  · exact h
  · exact put_other_wf _ _ _ h

theorem guestWrite_other_wf {s u : State} {rd sel : Nat} {new m : Word} (h : s.guestWrite rd sel new m = .ok u)
    (hs : Other.wf s.guest.other = true) : Other.wf u.guest.other = true := by
  rw [guestWrite_eq] at h
  split at h
  · cases h
  split at h <;> cases h
  · exact put_other_wf _ _ _ hs
  · exact hs

/-- An effect keeps the canonical form of the unnamed images of its context. -/
theorem Effect.other_wf {i : Instr} {s u : State} {c : Ctx} (h : Effect s i u) (hc : c = instrCtx i s)
    (hs : Other.wf (s.cp0 c).other = true) : Other.wf (u.cp0 c).other = true := by
  subst hc
  cases h with
  | @fromGuest rt rd sel v hf hi =>
    rw [instrCtx_of_guestMove s hf] at hs ⊢
    rw [setGpr_cp0]
    exact observe_other_wf rd sel hs
  | toGuest hf h =>
    rw [instrCtx_of_guestMove s hf] at hs ⊢
    exact guestWrite_other_wf h hs
  | marked range test => rwa [invalidateWhere_cp0]
  | probed v => rwa [setIndex_cp0_same]
  | readInvalid ctl1 hi hx => rwa [withGuestCtl1_cp0, loadInvalid, setCp0_cp0_same]
  | readEntry e ctl1 hi hx => rwa [withGuestCtl1_cp0, loadEntry, setCp0_cp0_same]
  | wrote hgid h => rwa [checkedWrite_cp0 h]
  | wroteAtRandom hgid h => rwa [randomMoved_cp0_same, checkedWrite_cp0 h]

theorem SameConfig.hasInvalid {k k' : Cp0} (h : SameConfig k k') : k'.hasInvalid = k.hasInvalid := by
  rw [Cp0.hasInvalid, Cp0.hasInvalid, h.ie]

theorem ctxOk_congr {s u : State} {c : Ctx} (hcfg : u.cfg = s.cfg) (hk : u.cp0 c = s.cp0 c) (ht : u.tlb c = s.tlb c) :
    ctxOk u c = ctxOk s c := by
  simp only [ctxOk, State.tlbEntries, hcfg, hk, ht]

/-- An effect keeps both contexts well formed. -/
theorem Effect.ctxOk {i : Instr} {s u : State} (h : Effect s i u) (c : Ctx) (hs : ctxOk s c = true) :
    ctxOk u c = true := by
  have hcfg : u.cfg = s.cfg := h.keepsOutside.cfg
  by_cases hc : c = instrCtx i s
  · obtain ⟨hlen, hfits, hmt, hinv, hother⟩ := (ctxOk_iff s c).1 hs
    obtain ⟨hlen', hfits'⟩ := h.entries hc hfits
    have hconf : SameConfig (s.cp0 c) (u.cp0 c) := h.sameConfig_all c
    refine (ctxOk_iff u c).2 ⟨?_, ?_, ?_, ?_, h.other_wf hc hother⟩
    · rw [hlen', hlen, State.tlbEntries, State.tlbEntries, hcfg]
    · rwa [hcfg]
    · rwa [hconf.mt, hcfg]
    · rw [hconf.hasInvalid]
      cases hhas : (s.cp0 c).hasInvalid with
      | true => exact .inl rfl
      | false => exact .inr (h.ehinv hc hhas (hinv.resolve_left (by simp [hhas])))
  · rw [ctxOk_congr hcfg (h.keepsOutside.cp0 c hc) (h.keepsOutside.tlb c hc), hs]

/-- A completed instruction keeps a well-formed state well formed. -/
theorem exec_wf {i : Instr} {s t : State} (hs : s.wf = true) (h : exec i s = .next t) : t.wf = true := by
  obtain ⟨-, u, hu, rfl⟩ := exec_effect h
  obtain ⟨hpc, hzero, hroot, hguest, hcfg, hctx, hmem⟩ := (wf_iff s).1 hs
  have hk := hu.keepsOutside
  refine (wf_iff _).2 ⟨?_, hu.gpr_zero.trans hzero, ?_, ?_, ?_, fun c => ?_, ?_⟩
  · rw [advance_pc, hk.pc, BitVec.toNat_add, BitVec.toNat_ofNat]
    omega
  · exact (hu.sameConfig_all .root).vz.trans hroot
  · exact (hu.sameConfig_all .guest).vz.trans hguest
  · rwa [advance_cfg, hk.cfg]
  · rw [ctxOk_congr (u := u.advance) (s := u) rfl (advance_cp0 ..) (advance_tlb ..)]
    exact hu.ctxOk c (hctx c)
  · rwa [advance_mem, hk.mem]

/-- Settles O10: a step runs one instruction, and each part of the invariant is kept by every effect. -/
theorem stepKeepsStateWellFormed : Obligations.StepKeepsStateWellFormed := by
  intro s t hs h
  obtain ⟨i, hi⟩ := exec_of_step h
  exact exec_wf hs hi

end Sys2Proof.Machine
end

section
/-! The guest moves (O27 to O37): what a read finds bit by bit, that a move completes with `MovedFrom` or `MovedTo`, and
what each move makes of the value. -/

namespace Sys2Proof.Machine

/-! ### What a read finds (R27, R39, R101) -/

theorem getLsbD_widthMask (w : RegWidth) {b : Nat} (hb : b < 64) :
    (widthMask w).getLsbD b = (w == .w64 || decide (b < 32)) := by
  cases w with
  | w64 =>
    rw [widthMask, BitVec.getLsbD_allOnes, decide_eq_true hb]
    rfl
  | w32 =>
    have hmask : widthMask .w32 = (BitVec.allOnes 32).setWidth 64 := by decide
    rw [hmask, BitVec.getLsbD_setWidth, BitVec.getLsbD_allOnes, decide_eq_true hb]
    rfl

theorem getLsbD_ehinvBit (b : Nat) : ehinvBit.getLsbD b = decide (b = 10) := by
  have hbit : ehinvBit = BitVec.twoPow 64 10 := by decide
  rw [hbit, BitVec.getLsbD_twoPow]
  simp [eq_comm]

theorem gcpr_entryHi {s : State} {rd sel : Nat} (hn : regName rd sel = .entryHi) :
    s.gcpr rd sel = (if s.guest.hasInvalid then s.guest.entryHi else s.guest.entryHi &&& ~~~ehinvBit) &&&
      widthMask (s.regInfo rd sel).width := by
  rw [State.gcpr, hn]

theorem gcpr_of_plain {s : State} {rd sel : Nat} (hc : isCount rd sel = false) (hr : isRandom rd sel = false)
    (hh : regName rd sel ≠ .entryHi) :
    s.gcpr rd sel = s.guest.get (regName rd sel) &&& widthMask (s.regInfo rd sel).width := by
  simp only [isCount, isRandom, beq_eq_false_iff_ne] at hc hr
  unfold State.gcpr
  split
  next hn => exact absurd hn hc
  next hn => exact absurd hn hr
  next hn => exact absurd hn hh
  next => rfl

/-- What a read finds of a stored register, bit by bit. -/
theorem getLsbD_gcpr {s : State} {rd sel : Nat} (hc : isCount rd sel = false) (hr : isRandom rd sel = false) {b : Nat}
    (hb : b < 64) : (s.gcpr rd sel).getLsbD b = ((s.guest.get (regName rd sel)).getLsbD b && storedBit s rd sel b) := by
  unfold storedBit
  by_cases hh : regName rd sel = .entryHi
  · rw [gcpr_entryHi hh, hh, BitVec.getLsbD_and, getLsbD_widthMask _ hb]
    by_cases hi : 2 ≤ s.guest.ie
    · simp [Cp0.hasInvalid, Cp0.get, hi, show ¬s.guest.ie < 2 by omega]
    · have hlt : s.guest.ie < 2 := by omega
      rw [hasInvalid_eq_false hlt, if_neg Bool.false_ne_true, BitVec.getLsbD_and, BitVec.getLsbD_not, getLsbD_ehinvBit]
      by_cases hten : b = 10
      · simp [hten, hlt]
      · simp [hten, hb, Cp0.get, beq_eq_false_iff_ne.2 hten]
  · rw [gcpr_of_plain hc hr hh, BitVec.getLsbD_and, getLsbD_widthMask _ hb, beq_eq_false_iff_ne.2 hh]
    simp

/-- Settles O27: the register's width, the missing EHINV and the visible mask are what a read takes away. -/
theorem readsFindTheStoredRegister : Obligations.ReadsFindTheStoredRegister := by
  intro s rd sel hc hr
  refine ⟨fun hcls b hb => ?_, fun hcls b hb => ?_, ?_⟩
  · simp [readValue, hcls, getLsbD_gcpr hc hr hb]
  · simp [readValue, hcls, getLsbD_gcpr hc hr hb]
  · rintro (hcls | hcls) <;> simp [readValue, hcls]

/-! ### Moves that complete (R101, R102) -/

/-- A move from the guest whose tests pass. -/
theorem exec_moveFrom {i : Instr} {s : State} {rt rd sel : Nat} {f : Word → Word} (hg : instrGuards i s = .ok ())
    (he : instrEffect i s = moveFrom rt rd sel f s) (hrt : rt < 32) (hcls : (s.regInfo rd sel).cls ≠ .absent) :
    ∃ t, exec i s = .next t ∧ MovedFrom rt rd sel (f (readValue s rd sel)) s t :=
  ⟨_, exec_of_effect hg (he.trans (moveFrom_ok _ _ _ _ _ hcls)), moveFrom_moved rt rd sel _ s hrt⟩

/-- A write, where it has a register that takes all its bits: one the state holds in 64 bits, or a mask of 32 bits. -/
theorem guestWrite_movedTo {s u : State} {rd sel : Nat} {new m : Word} (h : s.guestWrite rd sel new m = .ok u)
    (hwf : s.wf = true)
    (hw : s.regPresent rd sel = true → (regName rd sel).wide = true ∨ ∀ b, 32 ≤ b → m.getLsbD b = false) :
    MovedTo rd sel new m s u.advance := by
  cases hp : s.regPresent rd sel with
  | true => exact guestWrite_moved h (wf_guestOther hwf) (hw hp)
  | false =>
    rw [guestWrite_eq, hp] at h
    split at h
    · cases h
    · cases h
      exact ⟨rfl, rfl, fun _ => rfl, fun hn => by simp [hp] at hn⟩

/-- A move to the guest whose tests pass. -/
theorem exec_moveTo {i : Instr} {s : State} {rd sel : Nat} {new m : Word} (hg : instrGuards i s = .ok ())
    (he : instrEffect i s = s.guestWrite rd sel new m) (hcls : (s.regInfo rd sel).cls ≠ .absent) (hwf : s.wf = true)
    (hw : s.regPresent rd sel = true → (regName rd sel).wide = true ∨ ∀ b, 32 ≤ b → m.getLsbD b = false) :
    ∃ t, exec i s = .next t ∧ MovedTo rd sel new m s t := by
  cases hu : s.guestWrite rd sel new m with
  | error e => exact absurd (guestWrite_error hu).1 hcls
  | ok u => exact ⟨_, exec_of_effect hg (he.trans hu), guestWrite_movedTo hu hwf hw⟩

/-! ### Doubleword moves (R103, R104) -/

/-- The width test of the doubleword moves passes. -/
theorem widthTest_eq_false {s : State} {rd sel : Nat}
    (h : s.regPresent rd sel = true → (s.regInfo rd sel).width = .w64) :
    (s.regPresent rd sel && (s.regInfo rd sel).width == .w32) = false := by
  cases hp : s.regPresent rd sel with
  | false => rfl
  | true => rw [h hp]; rfl

theorem effect_dmfgc0 {s : State} (rt : Nat) {rd sel : Nat}
    (h : s.regPresent rd sel = true → (s.regInfo rd sel).width = .w64) :
    instrEffect (.dmfgc0 rt rd sel) s = moveFrom rt rd sel (fun data => data) s := by
  rw [instrEffect, widthTest_eq_false h]
  rfl

theorem effect_dmtgc0 {s : State} (rt : Nat) {rd sel : Nat} (hc : isCount rd sel = false)
    (h : s.regPresent rd sel = true → (s.regInfo rd sel).width = .w64) :
    instrEffect (.dmtgc0 rt rd sel) s = s.guestWrite rd sel (s.getGpr rt) (BitVec.allOnes 64) := by
  rw [instrEffect, widthTest_eq_false h, hc]
  rfl

/-- Settles O28: the value read is copied as it is. -/
theorem dmfgc0CopiesTheWholeRegister : Obligations.Dmfgc0CopiesTheWholeRegister :=
  fun _ rt _ _ hrt h h64 hcls hw =>
    exec_moveFrom (guards_guestMove rfl h fun _ => h64) (effect_dmfgc0 rt hw) hrt hcls

/-- Settles O29: a 64-bit register of the table is held in 64 bits, so every assigned bit arrives. -/
theorem dmtgc0AssignsTheWholeRegister : Obligations.Dmtgc0AssignsTheWholeRegister :=
  fun _ rt _ _ hwf h h64 hc hcls hw =>
    exec_moveTo (guards_guestMove rfl h fun _ => h64) (effect_dmtgc0 rt hc hw) hcls hwf
      fun hp => .inl (wide_of_w64 hwf (hw hp))

/-! ### What a move makes of a value, bit by bit (R105 to R108) -/

theorem getLsbD_signExtend_half (v : Half) {b : Nat} (hb : b < 64) :
    (v.signExtend 64).getLsbD b = if b < 32 then v.getLsbD b else v.getLsbD 31 := by
  rw [BitVec.getLsbD_signExtend, decide_eq_true hb, Bool.true_and]
  rfl

theorem getLsbD_sextLow (v : Word) {b : Nat} (hb : b < 64) :
    (sextLow v).getLsbD b = if b < 32 then v.getLsbD b else v.getLsbD 31 := by
  rw [sextLow, getLsbD_signExtend_half _ hb]
  split
  · simp_all
  · simp

theorem getLsbD_entryLoLow (v : Word) {b : Nat} (hb : b < 64) :
    (entryLoLow v).getLsbD b = if b < 30 then v.getLsbD b else if b = 30 then v.getLsbD 62 else v.getLsbD 63 := by
  rw [entryLoLow, getLsbD_signExtend_half _ hb]
  simp only [BitVec.getLsbD_append, BitVec.getLsbD_extractLsb']
  by_cases h30 : b < 30
  · simp [h30, show b < 32 by omega]
  · by_cases h31 : b = 30
    · simp [h31]
    · by_cases h32 : b < 32
      · obtain rfl : b = 31 := by omega
        simp
      · simp [h30, h31, h32]

theorem getLsbD_high_extract (v : Word) (lo : Nat) {b : Nat} (hb : b < 64) :
    ((v.extractLsb' lo 32).signExtend 64).getLsbD b =
      if b < 32 then v.getLsbD (lo + b) else v.getLsbD (lo + 31) := by
  rw [getLsbD_signExtend_half _ hb]
  split
  · simp_all
  · simp

theorem getLsbD_entryLoHigh (rixi : Bool) (v : Word) {b : Nat} (hb : b < 64) :
    (entryLoHigh rixi v).getLsbD b =
      ((rixi || decide (2 ≤ b)) && if b < 32 then v.getLsbD (30 + b) else v.getLsbD 61) := by
  have hthree : (3#64).getLsbD b = decide (b < 2) := by
    have hmask : 3#64 = (BitVec.allOnes 2).setWidth 64 := by decide
    rw [hmask, BitVec.getLsbD_setWidth, BitVec.getLsbD_allOnes, decide_eq_true hb, Bool.true_and]
  cases rixi with
  | true => simp [entryLoHigh, getLsbD_high_extract _ _ hb]
  | false =>
    simp only [entryLoHigh, Bool.false_eq_true, if_false]
    rw [BitVec.getLsbD_and, BitVec.getLsbD_not, hthree, getLsbD_high_extract _ _ hb]
    by_cases h2 : b < 2
    · simp [h2]
    · simp [h2, hb, Nat.le_of_not_lt h2]

theorem getLsbD_entryLoFromLow (v : Word) {b : Nat} (hb : b < 64) :
    (entryLoFromLow v).getLsbD b = if b < 30 then v.getLsbD b else (decide (62 ≤ b) && v.getLsbD (b - 32)) := by
  rw [entryLoFromLow]
  simp only [BitVec.getLsbD_append, BitVec.getLsbD_extractLsb']
  by_cases h30 : b < 30
  · simp [h30]
  · by_cases h62 : b < 62
    · simp [h30, h62, show b - 30 < 32 by omega]
    · simp [h30, show 62 ≤ b by omega, show ¬b - 30 < 32 by omega, show b - 30 - 32 < 2 by omega,
        show 30 + (b - 30 - 32) = b - 32 by omega]

theorem getLsbD_lowMask (w n b : Nat) : (lowMask w n).getLsbD b = (decide (b < n) && decide (b < w)) := by
  rw [lowMask, BitVec.getLsbD_ofNat, Nat.testBit_two_pow_sub_one, Bool.and_comm]

theorem getLsbD_entryLoFromHigh (cfg : Config) (v : Word) {b : Nat} (hb : b < 62) (h30 : 30 ≤ b) :
    (entryLoFromHigh cfg v).getLsbD b =
      ((decide (b < 32) || decide (b - 32 < cfg.paBits - 36)) && v.getLsbD (b - 30)) := by
  rw [entryLoFromHigh, paMask]
  simp only [BitVec.getLsbD_append, BitVec.getLsbD_extractLsb', BitVec.getLsbD_and, getLsbD_lowMask]
  by_cases h32 : b < 32
  · simp [h32, show ¬b < 30 by omega, show b - 30 < 2 by omega]
  · simp [h32, show ¬b < 30 by omega, show ¬b - 30 < 2 by omega, show b - 30 - 2 = b - 32 by omega,
      show b - 32 < 30 by omega, show 2 + (b - 32) = b - 30 by omega, Bool.and_comm]

theorem getLsbD_entryLoHighMask (b : Nat) : entryLoHighMask.getLsbD b = (decide (30 ≤ b) && decide (b < 62)) := by
  have hmask : entryLoHighMask = (BitVec.allOnes 32).setWidth 64 <<< 30 := by decide
  rw [hmask, BitVec.getLsbD_shiftLeft, BitVec.getLsbD_setWidth, BitVec.getLsbD_allOnes, Bool.eq_iff_iff]
  simp only [Bool.and_eq_true, Bool.not_eq_true', decide_eq_true_eq, decide_eq_false_iff_not]
  omega

/-! ### Moves from the guest (R105, R106) -/

theorem effect_mfgc0_entryLo {s : State} (rt : Nat) {rd sel : Nat} (h : isEntryLo rd sel = true) :
    instrEffect (.mfgc0 rt rd sel) s = moveFrom rt rd sel entryLoLow s := if_pos h

theorem effect_mfgc0_plain {s : State} (rt : Nat) {rd sel : Nat} (h : isEntryLo rd sel = false) :
    instrEffect (.mfgc0 rt rd sel) s = moveFrom rt rd sel sextLow s := if_neg (by simp [h])

theorem effect_mfhgc0_entryLo {s : State} (rt : Nat) {rd sel : Nat} (h : isEntryLo rd sel = true)
    (hh : highHalfGuards s rd sel = .ok ()) :
    instrEffect (.mfhgc0 rt rd sel) s = moveFrom rt rd sel (entryLoHigh s.cfg.rixiSupported) s := by
  simp only [instrEffect, hh, behind_ok, h, if_true]

theorem effect_mfhgc0_plain {s : State} (rt : Nat) {rd sel : Nat} (h : isEntryLo rd sel = false)
    (hh : highHalfGuards s rd sel = .ok ()) :
    instrEffect (.mfhgc0 rt rd sel) s = moveFrom rt rd sel (fun data => (data.extractLsb' 32 32).signExtend 64) s := by
  simp only [instrEffect, hh, behind_ok, h, Bool.false_eq_true, if_false]

/-- Settles O30: bits 29:0 stay, bits 63:62 come down to 31:30, and bit 31 fills the rest. -/
theorem mfgc0OfEntryLoMovesRiXi : Obligations.Mfgc0OfEntryLoMovesRiXi := by
  intro s rt rd sel hrt h hlo hcls
  obtain ⟨t, ht, hmoved⟩ := exec_moveFrom (guards_anyWidth rfl rfl h) (effect_mfgc0_entryLo rt hlo) hrt hcls
  refine ⟨t, _, ht, hmoved, ?_, ?_, ?_, fun b h32 hb => ?_⟩
  · ext b hb
    rw [BitVec.getElem_extractLsb', BitVec.getElem_extractLsb', getLsbD_entryLoLow _ (by omega), if_pos (by omega)]
  · exact getLsbD_entryLoLow _ (by decide)
  · exact getLsbD_entryLoLow _ (by decide)
  · rw [getLsbD_entryLoLow _ hb, if_neg (by omega), if_neg (by omega)]

/-- Settles O31: the low half stays, and bit 31 fills the rest. -/
theorem mfgc0SignExtendsTheLowHalf : Obligations.Mfgc0SignExtendsTheLowHalf := by
  intro s rt rd sel hrt h hlo hcls
  obtain ⟨t, ht, hmoved⟩ := exec_moveFrom (guards_anyWidth rfl rfl h) (effect_mfgc0_plain rt hlo) hrt hcls
  refine ⟨t, _, ht, hmoved, ?_, fun b h32 hb => ?_⟩
  · ext b hb
    rw [BitVec.getElem_extractLsb', BitVec.getElem_extractLsb', getLsbD_sextLow _ (by omega), if_pos (by omega)]
  · rw [getLsbD_sextLow _ hb, if_neg (by omega)]

theorem cls_of_regPresent {s : State} {rd sel : Nat} (h : s.regPresent rd sel = true) :
    (s.regInfo rd sel).cls ≠ .absent := fun ha => by simp [regPresent_eq_false ha] at h

/-- Settles O32: bits 61:30 come down by 30, and bit 61 fills the rest. -/
theorem mfhgc0OfEntryLoUndoesTheShift : Obligations.Mfhgc0OfEntryLoUndoesTheShift := by
  intro s rt rd sel hrt h hlo hp hext hxpa
  have hh : highHalfGuards s rd sel = .ok () := highHalfGuards_ok.2 fun _ => ⟨hext, .inr hxpa⟩
  obtain ⟨t, ht, hmoved⟩ :=
    exec_moveFrom (guards_anyWidth rfl rfl h) (effect_mfhgc0_entryLo rt hlo hh) hrt (cls_of_regPresent hp)
  refine ⟨t, _, ht, hmoved, fun hrixi => ?_, fun hrixi => ?_, ?_, fun b h32 hb => ?_⟩
  · ext b hb
    rw [BitVec.getElem_extractLsb', BitVec.getElem_extractLsb', getLsbD_entryLoHigh _ _ (by omega), if_pos (by omega)]
    simp [hrixi]
  · ext b hb
    rw [BitVec.getElem_extractLsb', getLsbD_entryLoHigh _ _ (by omega)]
    simp [hrixi, show ¬2 ≤ b by omega]
  · ext b hb
    rw [BitVec.getElem_extractLsb', BitVec.getElem_extractLsb', getLsbD_entryLoHigh _ _ (by omega), if_pos (by omega)]
    simp [show 30 + (2 + b) = 32 + b by omega]
  · rw [getLsbD_entryLoHigh _ _ hb, if_neg (by omega)]
    simp [show 2 ≤ b by omega]

/-- Settles O33: bits 63:32 come down, and bit 63 fills the rest. -/
theorem mfhgc0SignExtendsTheHighHalf : Obligations.Mfhgc0SignExtendsTheHighHalf := by
  intro s rt rd sel hrt h hlo hcls hx
  have hh : highHalfGuards s rd sel = .ok () := highHalfGuards_ok.2 hx
  obtain ⟨t, ht, hmoved⟩ := exec_moveFrom (guards_anyWidth rfl rfl h) (effect_mfhgc0_plain rt hlo hh) hrt hcls
  refine ⟨t, _, ht, hmoved, ?_, fun b h32 hb => ?_⟩
  · ext b hb
    rw [BitVec.getElem_extractLsb', BitVec.getElem_extractLsb', getLsbD_high_extract _ _ (by omega), if_pos (by omega),
      Nat.zero_add]
  · rw [getLsbD_high_extract _ _ hb, if_neg (by omega)]

/-! ### Moves to the guest (R107, R108) -/

/-- Only the pairs (2, 0) and (3, 0) are EntryLo0 and EntryLo1 (R28, R109). -/
theorem isEntryLo_iff (rd sel : Nat) : isEntryLo rd sel = true ↔ (rd = 2 ∨ rd = 3) ∧ sel = 0 := by
  constructor
  · intro h
    unfold isEntryLo regName at h
    split at h <;> simp_all
    split at h <;> simp_all
  · rintro ⟨rfl | rfl, rfl⟩ <;> rfl

theorem isCount_of_isEntryLo {rd sel : Nat} (h : isEntryLo rd sel = true) : isCount rd sel = false := by
  obtain ⟨rfl | rfl, rfl⟩ := (isEntryLo_iff rd sel).1 h <;> rfl

theorem isRandom_of_isEntryLo {rd sel : Nat} (h : isEntryLo rd sel = true) : isRandom rd sel = false := by
  obtain ⟨rfl | rfl, rfl⟩ := (isEntryLo_iff rd sel).1 h <;> rfl

theorem wide_of_isEntryLo {rd sel : Nat} (h : isEntryLo rd sel = true) : (regName rd sel).wide = true := by
  obtain ⟨rfl | rfl, rfl⟩ := (isEntryLo_iff rd sel).1 h <;> rfl

/-- The rows a well-formed configuration has for EntryLo0 and EntryLo1 (R31). -/
theorem entryLo_row {s : State} (hwf : s.wf = true) {rd sel : Nat} (h : isEntryLo rd sel = true) :
    (s.regInfo rd sel).cls = .replicated ∧ (s.regInfo rd sel).width = .w64 ∧
      (s.regInfo rd sel).extended = true ∧ (s.regInfo rd sel).xpaOnly = true := by
  have hrows : entryLoRowOk s.cfg 2 = true ∧ entryLoRowOk s.cfg 3 = true := by
    have hregs := wf_guestRegsOk hwf
    simp only [guestRegsOk, Bool.and_eq_true] at hregs
    simp only [hregs, and_self]
  have hrow : entryLoRowOk s.cfg rd = true := by
    obtain ⟨rfl | rfl, -⟩ := (isEntryLo_iff rd sel).1 h
    · exact hrows.1
    · exact hrows.2
  obtain ⟨-, rfl⟩ := (isEntryLo_iff rd sel).1 h
  simpa [entryLoRowOk, rowIs, State.regInfo, and_assoc] using hrow

theorem effect_mtgc0_entryLo {s : State} (rt : Nat) {rd sel : Nat} (h : isEntryLo rd sel = true) :
    instrEffect (.mtgc0 rt rd sel) s = s.guestWrite rd sel (entryLoFromLow (s.getGpr rt)) (BitVec.allOnes 64) := by
  simp only [instrEffect, isCount_of_isEntryLo h, h, Bool.false_eq_true, if_false, if_true]

theorem effect_mtgc0_plain {s : State} (rt : Nat) {rd sel : Nat} (h : isEntryLo rd sel = false)
    (hc : isCount rd sel = false) :
    instrEffect (.mtgc0 rt rd sel) s = s.guestWrite rd sel (s.getGpr rt) (widthMask (s.regInfo rd sel).width) := by
  simp only [instrEffect, hc, h, Bool.false_eq_true, if_false]

theorem effect_mthgc0_entryLo {s : State} (rt : Nat) {rd sel : Nat} (h : isEntryLo rd sel = true)
    (hh : highHalfGuards s rd sel = .ok ()) :
    instrEffect (.mthgc0 rt rd sel) s = s.guestWrite rd sel (entryLoFromHigh s.cfg (s.getGpr rt)) entryLoHighMask := by
  simp only [instrEffect, hh, behind_ok, h, if_true]

theorem effect_mthgc0_plain {s : State} (rt : Nat) {rd sel : Nat} (h : isEntryLo rd sel = false)
    (hh : highHalfGuards s rd sel = .ok ()) :
    instrEffect (.mthgc0 rt rd sel) s = s.guestWrite rd sel (s.getGpr rt <<< 32) highMask := by
  simp only [instrEffect, hh, behind_ok, h, Bool.false_eq_true, if_false]

/-- Settles O34: the value MTGC0 makes for EntryLo, field by field. -/
theorem mtgc0ToEntryLoPlacesRiXi : Obligations.Mtgc0ToEntryLoPlacesRiXi := by
  intro s rt rd sel hwf h hlo
  obtain ⟨hcls, -⟩ := entryLo_row hwf hlo
  obtain ⟨t, ht, hmoved⟩ := exec_moveTo (guards_anyWidth rfl rfl h) (effect_mtgc0_entryLo rt hlo) (by simp [hcls]) hwf
    fun _ => .inl (wide_of_isEntryLo hlo)
  refine ⟨t, _, ht, hmoved, ?_, ?_, ?_, ?_⟩
  · ext b hb
    rw [BitVec.getElem_extractLsb', BitVec.getElem_extractLsb', getLsbD_entryLoFromLow _ (by omega), if_pos (by omega)]
  · ext b hb
    rw [BitVec.getElem_extractLsb', getLsbD_entryLoFromLow _ (by omega), if_neg (by omega)]
    simp [show ¬62 ≤ 30 + b by omega]
  · exact getLsbD_entryLoFromLow _ (by decide)
  · exact getLsbD_entryLoFromLow _ (by decide)

/-- A mask as wide as the table says suits the register: the state holds a 64-bit register in 64 bits. -/
theorem wide_or_widthMask {s : State} (hwf : s.wf = true) (rd sel : Nat) :
    (regName rd sel).wide = true ∨ ∀ b, 32 ≤ b → (widthMask (s.regInfo rd sel).width).getLsbD b = false := by
  cases hw : (s.regInfo rd sel).width with
  | w64 => exact .inl (wide_of_w64 hwf hw)
  | w32 =>
    refine .inr fun b h32 => ?_
    by_cases hb : b < 64
    · rw [getLsbD_widthMask _ hb]
      simp
      omega
    · exact BitVec.getLsbD_of_ge _ _ (by omega)

/-- Settles O35: the mask is the register's width. -/
theorem mtgc0WritesTheRegistersWidth : Obligations.Mtgc0WritesTheRegistersWidth := by
  intro s rt rd sel hwf h hlo hc hcls
  have hmove := exec_moveTo (guards_anyWidth rfl rfl h) (effect_mtgc0_plain rt hlo hc) hcls hwf
    fun _ => wide_or_widthMask hwf rd sel
  cases hw : (s.regInfo rd sel).width <;> rwa [hw] at hmove

/-- Settles O36: the value MTHGC0 makes for EntryLo, under the mask of bits 61:30. -/
theorem mthgc0ToEntryLoFillsBits61To30 : Obligations.Mthgc0ToEntryLoFillsBits61To30 := by
  intro s rt rd sel hwf h hlo hxpa
  obtain ⟨hcls, -, hext, -⟩ := entryLo_row hwf hlo
  have hh : highHalfGuards s rd sel = .ok () := highHalfGuards_ok.2 fun _ => ⟨hext, .inr hxpa⟩
  obtain ⟨t, ht, hmoved⟩ := exec_moveTo (guards_anyWidth rfl rfl h) (effect_mthgc0_entryLo rt hlo hh) (by simp [hcls])
    hwf fun _ => .inl (wide_of_isEntryLo hlo)
  refine ⟨t, _, ht, hmoved, ?_, fun b hb => ?_⟩
  · ext b hb
    rw [BitVec.getElem_extractLsb', BitVec.getElem_extractLsb', getLsbD_entryLoFromHigh _ _ (by omega) (by omega)]
    simp [show 30 + b < 32 by omega]
  · rw [getLsbD_entryLoFromHigh _ _ (by omega) (by omega)]
    simp [show 32 + b - 30 = 2 + b by omega]

/-- Settles O37: the low half moves up by 32 under the mask of bits 63:32. -/
theorem mthgc0WritesTheHighHalf : Obligations.Mthgc0WritesTheHighHalf := by
  intro s rt rd sel hwf h hlo hcls hx
  have hh : highHalfGuards s rd sel = .ok () := highHalfGuards_ok.2 hx
  obtain ⟨t, ht, hmoved⟩ := exec_moveTo (guards_anyWidth rfl rfl h) (effect_mthgc0_plain rt hlo hh) hcls hwf
    fun hp => .inl (wide_of_extended hwf (hx hp).1)
  refine ⟨t, _, ht, hmoved, ?_⟩
  ext b hb
  rw [BitVec.getElem_extractLsb', BitVec.getElem_extractLsb', BitVec.getLsbD_shiftLeft]
  simp [show 32 + b < 64 by omega]

end Sys2Proof.Machine
end

section
/-! The round trips of R111 (O38, O39): a move to a fully writable register, then a read of it. -/

namespace Sys2Proof.Machine

/-! ### Moves seen from their next states -/

/-- A completed move to the guest has made its write. -/
theorem movedTo_of_exec {i : Instr} {s t : State} {rd sel : Nat} {new m : Word} (hwf : s.wf = true)
    (h : exec i s = .next t) (he : ∀ u, instrEffect i s = .ok u → s.guestWrite rd sel new m = .ok u)
    (hw : (regName rd sel).wide = true) : MovedTo rd sel new m s t := by
  obtain ⟨-, u, hu, rfl⟩ := exec_next h
  exact guestWrite_movedTo (he u hu) hwf fun _ => .inl hw

/-- A completed move from the guest has put what it makes of the value read into its register. -/
theorem getGpr_of_exec {i : Instr} {s t : State} {rt rd sel : Nat} {f : Word → Word} (h : exec i s = .next t)
    (he : ∀ u, instrEffect i s = .ok u → moveFrom rt rd sel f s = .ok u) (h0 : 0 < rt) (hrt : rt < 32) :
    t.getGpr rt = f (readValue s rd sel) := by
  obtain ⟨-, u, hu, rfl⟩ := exec_next h
  obtain ⟨-, rfl⟩ := moveFrom_next (he u hu)
  obtain ⟨-, hget, -⟩ := moveFrom_moved rt rd sel (f (readValue s rd sel)) s hrt
  exact hget (Nat.pos_iff_ne_zero.1 h0)

theorem dmfgc0_ok {s u : State} {rt rd sel : Nat} (h : instrEffect (.dmfgc0 rt rd sel) s = .ok u) :
    moveFrom rt rd sel (fun data => data) s = .ok u := by
  simp only [instrEffect] at h
  split at h
  · cases h
  · exact h

theorem dmtgc0_ok {s u : State} {rt rd sel : Nat} (h : instrEffect (.dmtgc0 rt rd sel) s = .ok u) :
    (s.regPresent rd sel = true → (s.regInfo rd sel).width = .w64) ∧
      s.guestWrite rd sel (s.getGpr rt) (BitVec.allOnes 64) = .ok u := by
  simp only [instrEffect] at h
  split at h
  · cases h
  split at h
  · cases h
  next hw =>
    refine ⟨fun hp => ?_, h⟩
    cases hwidth : (s.regInfo rd sel).width with
    | w64 => rfl
    | w32 => simp [hp, hwidth] at hw

theorem mfhgc0_entryLo_ok {s u : State} {rt rd sel : Nat} (hlo : isEntryLo rd sel = true)
    (h : instrEffect (.mfhgc0 rt rd sel) s = .ok u) :
    moveFrom rt rd sel (entryLoHigh s.cfg.rixiSupported) s = .ok u := by
  have hmove := (behind_eq_ok.1 h).2
  rwa [if_pos hlo] at hmove

theorem mthgc0_entryLo_ok {s u : State} {rt rd sel : Nat} (hlo : isEntryLo rd sel = true)
    (h : instrEffect (.mthgc0 rt rd sel) s = .ok u) :
    s.guestWrite rd sel (entryLoFromHigh s.cfg (s.getGpr rt)) entryLoHighMask = .ok u := by
  have hmove := (behind_eq_ok.1 h).2
  rwa [if_pos hlo] at hmove

/-! ### A fully writable register after a move to it -/

/-- A `Replicated` 64-bit register all of whose bits are writable (the condition of R111). -/
structure FullyWritable (s : State) (rd sel : Nat) : Prop where
  cls : (s.regInfo rd sel).cls = .replicated
  width : (s.regInfo rd sel).width = .w64
  writable : s.writableBits rd sel = BitVec.allOnes 64
  notCount : isCount rd sel = false
  notRandom : isRandom rd sel = false

namespace FullyWritable
variable {s t : State} {rd sel : Nat} {new m : Word}

/-- Its stored image after a move: the assigned bits, and the old ones elsewhere. -/
theorem get_after (h : FullyWritable s rd sel) (hmoved : MovedTo rd sel new m s t) {b : Nat} (hb : b < 64) :
    (t.guest.get (regName rd sel)).getLsbD b =
      if m.getLsbD b then new.getLsbD b else (s.guest.get (regName rd sel)).getLsbD b := by
  obtain ⟨-, -, -, hbits⟩ := hmoved
  have hp : s.regPresent rd sel = true := by simp [State.regPresent, h.cls]
  rw [(hbits hp).1 b hb, changedBit, h.writable, h.cls, BitVec.getLsbD_allOnes, decide_eq_true hb]
  simp

/-- It is EntryHi only where EHINV exists: otherwise bit 10 is read-only. -/
theorem two_le_ie (h : FullyWritable s rd sel) (hn : regName rd sel = .entryHi) : 2 ≤ s.guest.ie := by
  by_contra hi
  have hten : (readOnlyBits s.guest (regName rd sel)).getLsbD 10 = true := by
    simp [hn, readOnlyBits, hasInvalid_eq_false (Nat.lt_of_not_le hi), ehinvBit]
  have hmask := writeMask_readOnly s rd sel (BitVec.allOnes 64) 10 hten
  rw [getLsbD_writeMask, changedBit, h.writable, h.cls] at hmask
  simp at hmask

/-- What a read finds in it after a move. -/
theorem read_after (h : FullyWritable s rd sel) (hmoved : MovedTo rd sel new m s t) (hie : t.guest.ie = s.guest.ie)
    {b : Nat} (hb : b < 64) :
    (readValue t rd sel).getLsbD b =
      if m.getLsbD b then new.getLsbD b else (s.guest.get (regName rd sel)).getLsbD b := by
  have hinfo : t.regInfo rd sel = s.regInfo rd sel := by rw [hmoved.1]; rfl
  have hstored : storedBit t rd sel b = true := by
    rw [storedBit, hinfo, h.width, hie]
    by_cases hn : regName rd sel = .entryHi
    · simp [show ¬s.guest.ie < 2 from Nat.not_lt.2 (h.two_le_ie hn)]
    · simp [beq_eq_false_iff_ne.2 hn]
  simp only [readValue, hinfo, h.cls]
  rw [getLsbD_gcpr h.notCount h.notRandom hb, hstored, Bool.and_true, h.get_after hmoved hb]

end FullyWritable

theorem ie_of_exec {i : Instr} {s t : State} (h : exec i s = .next t) : t.guest.ie = s.guest.ie := by
  obtain ⟨-, u, hu, rfl⟩ := exec_effect h
  exact (hu.sameConfig_all .guest).ie

theorem cfg_of_exec {i : Instr} {s t : State} (h : exec i s = .next t) : t.cfg = s.cfg := by
  obtain ⟨-, u, hu, rfl⟩ := exec_effect h
  exact hu.keepsOutside.cfg

/-- Settles O38: every bit is assigned, kept, and found again. -/
theorem doublewordMoveRoundTrip : Obligations.DoublewordMoveRoundTrip := by
  intro s t u r q rd sel hwf h0 hq hcls hfull hc hr ht hu
  have hp : s.regPresent rd sel = true := by simp [State.regPresent, hcls]
  have hwidth : (s.regInfo rd sel).width = .w64 := by
    obtain ⟨-, v, hv, -⟩ := exec_next ht
    exact (dmtgc0_ok hv).1 hp
  have hreg : FullyWritable s rd sel := ⟨hcls, hwidth, hfull, hc, hr⟩
  have hmoved := movedTo_of_exec hwf ht (fun v hv => (dmtgc0_ok hv).2) (wide_of_w64 hwf hwidth)
  rw [getGpr_of_exec hu (fun v => dmfgc0_ok) h0 hq]
  refine BitVec.eq_of_getLsbD_eq fun b hb => ?_
  rw [hreg.read_after hmoved (ie_of_exec ht) hb, BitVec.getLsbD_allOnes, decide_eq_true hb, if_pos rfl]

/-! ### EntryLo (R111 (b) to (d)) -/

section
variable {s t u : State} {r q rd : Nat}

theorem fullyWritable_entryLo (hwf : s.wf = true) (hlo : isEntryLo rd 0 = true)
    (hfull : s.writableBits rd 0 = BitVec.allOnes 64) : FullyWritable s rd 0 := by
  obtain ⟨hcls, hwidth, -⟩ := entryLo_row hwf hlo
  exact ⟨hcls, hwidth, hfull, isCount_of_isEntryLo hlo, isRandom_of_isEntryLo hlo⟩

theorem movedTo_of_mtgc0 (hwf : s.wf = true) (hlo : isEntryLo rd 0 = true) (ht : exec (.mtgc0 r rd 0) s = .next t) :
    MovedTo rd 0 (entryLoFromLow (s.getGpr r)) (BitVec.allOnes 64) s t :=
  movedTo_of_exec hwf ht (fun _ hv => (effect_mtgc0_entryLo r hlo) ▸ hv) (wide_of_isEntryLo hlo)

theorem movedTo_of_mthgc0 (hwf : s.wf = true) (hlo : isEntryLo rd 0 = true) (ht : exec (.mthgc0 r rd 0) s = .next t) :
    MovedTo rd 0 (entryLoFromHigh s.cfg (s.getGpr r)) entryLoHighMask s t :=
  movedTo_of_exec hwf ht (fun _ => mthgc0_entryLo_ok hlo) (wide_of_isEntryLo hlo)

/-- R111 (b): MFGC0 brings down what MTGC0 took apart. -/
theorem mfgc0_after_mtgc0 (hwf : s.wf = true) (h0 : 0 < q) (hq : q < 32) (hlo : isEntryLo rd 0 = true)
    (hfull : s.writableBits rd 0 = BitVec.allOnes 64) (ht : exec (.mtgc0 r rd 0) s = .next t)
    (hu : exec (.mfgc0 q rd 0) t = .next u) : u.getGpr q = ((s.getGpr r).extractLsb' 0 32).signExtend 64 := by
  have hread : readValue t rd 0 = entryLoFromLow (s.getGpr r) := by
    refine BitVec.eq_of_getLsbD_eq fun b hb => ?_
    rw [(fullyWritable_entryLo hwf hlo hfull).read_after (movedTo_of_mtgc0 hwf hlo ht) (ie_of_exec ht) hb,
      BitVec.getLsbD_allOnes, decide_eq_true hb, if_pos rfl]
  rw [getGpr_of_exec hu (fun _ hv => (effect_mfgc0_entryLo q hlo) ▸ hv) h0 hq, hread]
  refine BitVec.eq_of_getLsbD_eq fun b hb => ?_
  rw [getLsbD_entryLoLow _ hb, getLsbD_high_extract _ _ hb, Nat.zero_add, Nat.zero_add]
  by_cases h30 : b < 30
  · rw [if_pos h30, if_pos (by omega), getLsbD_entryLoFromLow _ hb, if_pos h30]
  · rw [if_neg h30]
    by_cases h31 : b = 30
    · rw [if_pos h31, if_pos (by omega), getLsbD_entryLoFromLow _ (by decide), h31]
      rfl
    · rw [if_neg h31, getLsbD_entryLoFromLow _ (by decide)]
      by_cases h32 : b < 32
      · obtain rfl : b = 31 := by omega
        rfl
      · rw [if_neg h32]
        rfl

/-- R111 (c), bit by bit: MFHGC0 returns of what MTHGC0 took the bits that `PABITS` implements, the top one copied
up. -/
theorem mfhgc0_after_mthgc0 (hwf : s.wf = true) (h0 : 0 < q) (hq : q < 32) (hlo : isEntryLo rd 0 = true)
    (hfull : s.writableBits rd 0 = BitVec.allOnes 64) (hrixi : s.cfg.rixiSupported = true)
    (ht : exec (.mthgc0 r rd 0) s = .next t) (hu : exec (.mfhgc0 q rd 0) t = .next u) {b : Nat} (hb : b < 64) :
    (u.getGpr q).getLsbD b =
      ((decide (min b 31 < 2) || decide (min b 31 - 2 < s.cfg.paBits - 36)) && (s.getGpr r).getLsbD (min b 31)) := by
  have hread : ∀ c, c < 32 → (readValue t rd 0).getLsbD (30 + c) =
      ((decide (c < 2) || decide (c - 2 < s.cfg.paBits - 36)) && (s.getGpr r).getLsbD c) := by
    intro c hc
    rw [(fullyWritable_entryLo hwf hlo hfull).read_after (movedTo_of_mthgc0 hwf hlo ht) (ie_of_exec ht) (by omega),
      getLsbD_entryLoHighMask, decide_eq_true (by omega), decide_eq_true (by omega), Bool.and_self,
      if_pos rfl, getLsbD_entryLoFromHigh _ _ (by omega) (by omega), show 30 + c - 30 = c by omega,
      show 30 + c - 32 = c - 2 by omega, decide_eq_decide.2 (show 30 + c < 32 ↔ c < 2 by omega)]
  rw [getGpr_of_exec hu (fun _ => mfhgc0_entryLo_ok hlo) h0 hq, cfg_of_exec ht, hrixi, getLsbD_entryLoHigh _ _ hb]
  by_cases h32 : b < 32
  · rw [if_pos h32, hread b h32, Nat.min_eq_left (by omega)]
    rfl
  · rw [if_neg h32, hread 31 (by decide), Nat.min_eq_right (by omega)]
    rfl

/-- R111 (c) with all of bits 61:32 implemented. -/
theorem mfhgc0_after_mthgc0_wide (hwf : s.wf = true) (h0 : 0 < q) (hq : q < 32) (hlo : isEntryLo rd 0 = true)
    (hfull : s.writableBits rd 0 = BitVec.allOnes 64) (hpa : 66 ≤ s.cfg.paBits) (hrixi : s.cfg.rixiSupported = true)
    (ht : exec (.mthgc0 r rd 0) s = .next t) (hu : exec (.mfhgc0 q rd 0) t = .next u) :
    u.getGpr q = ((s.getGpr r).extractLsb' 0 32).signExtend 64 := by
  refine BitVec.eq_of_getLsbD_eq fun b hb => ?_
  rw [mfhgc0_after_mthgc0 hwf h0 hq hlo hfull hrixi ht hu hb, getLsbD_high_extract _ _ hb, Nat.zero_add, Nat.zero_add,
    decide_eq_true (show min b 31 - 2 < s.cfg.paBits - 36 by omega), Bool.or_true, Bool.true_and]
  split
  · rw [Nat.min_eq_left (by omega)]
  · rw [Nat.min_eq_right (by omega)]

/-- R111 (c) with fewer physical address bits: those that are not implemented come back as 0. -/
theorem mfhgc0_after_mthgc0_narrow (hwf : s.wf = true) (h0 : 0 < q) (hq : q < 32) (hlo : isEntryLo rd 0 = true)
    (hfull : s.writableBits rd 0 = BitVec.allOnes 64) (hlow : 36 < s.cfg.paBits) (hhigh : s.cfg.paBits < 66)
    (hrixi : s.cfg.rixiSupported = true) (ht : exec (.mthgc0 r rd 0) s = .next t)
    (hu : exec (.mfhgc0 q rd 0) t = .next u) {b : Nat} (hb : b < 64) :
    (u.getGpr q).getLsbD b = (decide (b < s.cfg.paBits - 34) && (s.getGpr r).getLsbD b) := by
  rw [mfhgc0_after_mthgc0 hwf h0 hq hlo hfull hrixi ht hu hb, ← Bool.decide_or]
  by_cases h32 : b < 32
  · rw [Nat.min_eq_left (by omega),
      decide_eq_decide.2 (show b < 2 ∨ b - 2 < s.cfg.paBits - 36 ↔ b < s.cfg.paBits - 34 by omega)]
  · rw [Nat.min_eq_right (by omega), decide_eq_false (show ¬(31 < 2 ∨ 31 - 2 < s.cfg.paBits - 36) by omega),
      decide_eq_false (show ¬b < s.cfg.paBits - 34 by omega), Bool.false_and, Bool.false_and]

/-- R111 (d): MTGC0 clears bits 61:30. -/
theorem extract_after_mtgc0 (hwf : s.wf = true) (hlo : isEntryLo rd 0 = true)
    (hfull : s.writableBits rd 0 = BitVec.allOnes 64) (ht : exec (.mtgc0 r rd 0) s = .next t) :
    (t.guest.get (regName rd 0)).extractLsb' 30 32 = 0#32 := by
  ext b hb
  rw [BitVec.getElem_extractLsb',
    (fullyWritable_entryLo hwf hlo hfull).get_after (movedTo_of_mtgc0 hwf hlo ht) (by omega), BitVec.getLsbD_allOnes,
    decide_eq_true (by omega), if_pos rfl, getLsbD_entryLoFromLow _ (by omega), if_neg (by omega)]
  simp
  omega

/-- R111 (d): MTHGC0 keeps a field that lies outside bits 61:30. -/
theorem extract_after_mthgc0 (hwf : s.wf = true) (hlo : isEntryLo rd 0 = true)
    (hfull : s.writableBits rd 0 = BitVec.allOnes 64) (ht : exec (.mthgc0 r rd 0) s = .next t) {lo len : Nat}
    (hout : lo + len ≤ 30 ∨ 62 ≤ lo) (hin : lo + len ≤ 64) :
    (t.guest.get (regName rd 0)).extractLsb' lo len = (s.guest.get (regName rd 0)).extractLsb' lo len := by
  ext b hb
  have hmask : ¬(30 ≤ lo + b ∧ lo + b < 62) := by omega
  rw [BitVec.getElem_extractLsb', BitVec.getElem_extractLsb',
    (fullyWritable_entryLo hwf hlo hfull).get_after (movedTo_of_mthgc0 hwf hlo ht) (by omega), getLsbD_entryLoHighMask,
    ← Bool.decide_and, decide_eq_false hmask, if_neg Bool.false_ne_true]

end

/-- Settles O39: the five clauses, for the two pairs that are EntryLo. -/
theorem entryLoMoveRoundTrips : Obligations.EntryLoMoveRoundTrips := by
  intro s t u r q rd hwf h0 hq hrd hfull
  have hlo : isEntryLo rd 0 = true := (isEntryLo_iff rd 0).2 ⟨hrd, rfl⟩
  exact ⟨fun ht hu => mfgc0_after_mtgc0 hwf h0 hq hlo hfull ht hu,
    fun hpa hrixi ht hu => mfhgc0_after_mthgc0_wide hwf h0 hq hlo hfull hpa hrixi ht hu,
    fun hlow hhigh hrixi ht hu b hb => mfhgc0_after_mthgc0_narrow hwf h0 hq hlo hfull hlow hhigh hrixi ht hu hb,
    fun ht => extract_after_mtgc0 hwf hlo hfull ht,
    fun ht => ⟨extract_after_mthgc0 hwf hlo hfull ht (.inr (by decide)) (by decide),
      extract_after_mthgc0 hwf hlo hfull ht (.inl (by decide)) (by decide)⟩⟩

end Sys2Proof.Machine
end

section
/-! The TLB instructions where their guards pass (O40 to O55): one lemma for each shared effect says what it leaves, and
each instruction is that effect in its context, with its GuestID. -/

namespace Sys2Proof.Machine

/-! ### Invalidation (R131, R133, R134) -/

/-- An invalidation with a range marks exactly the entries in it that pass its test. -/
theorem exec_invalidation {i : Instr} {s : State} {c : Ctx} {test : TlbEntry → Bool} {hit : TlbEntry → Prop}
    (hg : instrGuards i s = .ok ()) (he : instrEffect i s = invalidation c test s) (htlb : (s.cp0 c).hasTlb = true)
    (hidx : RangeIndexOk c s) (htest : ∀ e, test e = true ↔ hit e) :
    ∃ t, exec i s = .next t ∧ Invalidated c hit s t := by
  obtain ⟨range, hr⟩ := invRange_exists hidx
  have hu : invalidation c test s = .ok (invalidateWhere c range test s) := by rw [invalidation, hr]
  exact ⟨_, exec_of_effect hg (he.trans hu),
    invalidateWhere_invalidated c range test hit s (invRange_ok hr htlb).2 htest⟩

/-- Settles O40: the guest TLB, with `RID`. -/
theorem tlbginvMarksByAsid : Obligations.TlbginvMarksByAsid := fun s h hie hidx =>
  exec_invalidation (guards_guestTlb rfl h fun _ => hie) rfl h.2 hidx (asidTest_iff .guest s.rid s)

/-- Settles O41: the guest TLB, with `RID`, whatever the ASID. -/
theorem tlbginvfMarksTheRange : Obligations.TlbginvfMarksTheRange := fun s h hie hidx =>
  exec_invalidation (guards_guestTlb rfl h fun _ => hie) rfl h.2 hidx (gidOk_iff s s.rid)

/-- Settles O42: the executing context's TLB, with the executing mode's GuestID. -/
theorem tlbinvMarksByAsid : Obligations.TlbinvMarksByAsid := fun s h hie hidx =>
  exec_invalidation (guards_baseTlb rfl h fun _ => hie) rfl h.2.2 hidx (asidTest_iff s.cur s.curGid s)

/-- Settles O43: the executing context's TLB, with the executing mode's GuestID, whatever the ASID. -/
theorem tlbinvfMarksTheRange : Obligations.TlbinvfMarksTheRange := fun s h hie hidx =>
  exec_invalidation (guards_baseTlb rfl h fun _ => hie) rfl h.2.2 hidx (gidOk_iff s s.curGid)

/-! ### Probes (R132, R135, R163) -/

theorem probe_of_result {c : Ctx} {found : List Nat} {s : State} {v : Half} (h : probeResult found s = .ok v) :
    probe c found s = .ok (s.setIndex c v) := by rw [probe, h]

/-- A list without repetitions whose only element is `a`. -/
theorem eq_singleton_of_nodup {l : List Nat} {a : Nat} (hnd : l.Nodup) (ha : a ∈ l) (hall : ∀ b ∈ l, b = a) :
    l = [a] := by
  match l with
  | [] => simp at ha
  | [b] => rw [hall b (by simp)]
  | b :: c :: rest =>
    have hbc : b = c := (hall b (by simp)).trans (hall c (by simp)).symm
    simp [hbc] at hnd

/-- A probe that finds exactly the matching entries reports them as R135 and R163 say. -/
theorem probeOutcome_of_found {i : Instr} {s : State} {c : Ctx} {gid : BitVec 8} {found : List Nat}
    (hg : instrGuards i s = .ok ()) (he : instrEffect i s = probe c found s)
    (hmem : ∀ k, k ∈ found ↔ k < s.tlbEntries c ∧ Matches c gid s k) (hnd : found.Nodup) :
    ProbeOutcome c gid s (exec i s) := by
  have answer : ∀ {v : Half}, probeResult found s = .ok v → exec i s = .next (probed c v s) := fun hv =>
    exec_of_effect hg (he.trans (probe_of_result hv))
  refine ⟨fun hnone => ?miss, fun n hn hmatch hunique => ?one, fun m n hm hn hne hmatch hmatch' => ?several⟩
  case miss =>
    have hfound : found = [] := List.eq_nil_iff_forall_not_mem.2 fun k hk =>
      hnone k ((hmem k).1 hk).1 ((hmem k).1 hk).2
    refine ⟨1#1 ++ Config.freeMissIndex s.draws, miss_bit _, answer ?_⟩
    rw [hfound]
    rfl
  case one =>
    have hfound : found = [n] := eq_singleton_of_nodup hnd ((hmem n).2 ⟨hn, hmatch⟩) fun k hk =>
      hunique k ((hmem k).1 hk).1 ((hmem k).1 hk).2
    refine answer ?_
    rw [hfound]
    rfl
  case several =>
    obtain ⟨hfound, -⟩ | ⟨k, hk, hv⟩ | ⟨-, hv⟩ := probeResult_cases found s
    · have hin : m ∈ found := (hmem m).2 ⟨hm, hmatch⟩
      simp [hfound] at hin
    · obtain ⟨hlt, hmk⟩ := (hmem k).1 hk
      exact .inl ⟨k, hlt, hmk, answer hv⟩
    · right
      rw [exec_of_guards hg, he, probe, hv]
      rfl

/-- Settles O44: where every FTLB entry sits in its set, TLBGP finds every matching entry. -/
theorem tlbgpReportsTheMatch : Obligations.TlbgpReportsTheMatch := by
  intro s h hplace
  refine probeOutcome_of_found (guards_guestTlb rfl h nofun) rfl (fun k => ?_) ?_
  · rw [seenHits_of_inPlace hplace, mem_hits]
  · exact (nodup_hits ..).filter _

/-- Settles O45: TLBP finds every matching entry. -/
theorem tlbpReportsTheMatch : Obligations.TlbpReportsTheMatch := fun _ h =>
  probeOutcome_of_found (guards_baseTlb rfl h nofun) rfl (fun _ => mem_hits) (nodup_hits ..)

/-- A completed probe of matching entries that leaves bit 31 of Index 0 reports one of them. -/
theorem probe_sound {i : Instr} {s t : State} {c : Ctx} {gid : BitVec 8} {found : List Nat}
    (he : instrEffect i s = probe c found s) (hfound : ∀ k ∈ found, k ∈ hits c gid s) (hsize : s.tlbEntries c ≤ 2 ^ 31)
    (h : exec i s = .next t) (hbit : (t.cp0 c).index.getLsbD 31 = false) :
    (t.cp0 c).index.toNat < s.tlbEntries c ∧ Matches c gid s (t.cp0 c).index.toNat := by
  obtain ⟨-, u, hu, rfl⟩ := exec_next h
  obtain ⟨v, hv, rfl⟩ := probe_ok (he.symm.trans hu)
  rw [advance_cp0, setIndex_index] at hbit ⊢
  obtain ⟨-, hv'⟩ | ⟨k, hk, hv'⟩ | ⟨-, hv'⟩ := probeResult_cases found s <;> rw [hv'] at hv <;> cases hv
  · rw [miss_bit] at hbit
    cases hbit
  · obtain ⟨hlt, hmatch⟩ := mem_hits.1 (hfound k hk)
    rw [BitVec.toNat_ofNat, Nat.mod_eq_of_lt (by omega)]
    exact ⟨hlt, hmatch⟩

/-- Settles O46: whatever a probe finds has matched. -/
theorem probesReportOnlyMatchingEntries : Obligations.ProbesReportOnlyMatchingEntries :=
  ⟨fun _ _ hsize h hbit => probe_sound (i := .tlbgp) (c := .guest) rfl (fun _ hk => (mem_seenHits.1 hk).1) hsize h hbit,
   fun _ _ hsize h hbit => probe_sound (i := .tlbp) rfl (fun _ hk => hk) hsize h hbit⟩

/-! ### Reads (R136, R164) -/

theorem not_markedInvalid {s : State} {c : Ctx} {e : TlbEntry} (h : (s.cp0 c).ie < 2 ∨ e.hardwareInvalid = false) :
    s.markedInvalid c e = false := by
  rw [← Bool.not_eq_true, markedInvalid_iff]
  rintro ⟨hie, hinv⟩
  rcases h with h | h
  · omega
  · simp [hinv] at h

theorem g1_loadEntry (c : Ctx) (e : TlbEntry) (s : State) : (loadEntry c e s).g1 = s.g1 := by
  rw [State.g1, State.g1, loadEntry, setCp0_guestCtl0]

theorem g1_loadInvalid (c : Ctx) (s : State) : (loadInvalid c s).g1 = s.g1 := by
  rw [State.g1, State.g1, loadInvalid, setCp0_guestCtl0]

/-- A read that updates RID changes one context's registers and `GuestCtl1`. -/
theorem frameRead_updateRid (c : Ctx) (k : Cp0) (s : State) (v : BitVec 8) :
    FrameRead c s ((s.setCp0 c k).updateRid v).advance := by
  rw [FrameRead, updateRid_eq]
  cases c <;> rfl

theorem frameCp0_setCp0 (c : Ctx) (k : Cp0) (s : State) : FrameCp0 c s (s.setCp0 c k).advance := by
  rw [FrameCp0]
  cases c <;> rfl

/-- What a read of a valid entry leaves, RID included. -/
theorem loadEntry_updateRid (c : Ctx) (e : TlbEntry) (s : State) (v : BitVec 8) :
    RegsHoldEntry c e s ((loadEntry c e s).updateRid v).advance ∧
      RidBecomes v s ((loadEntry c e s).updateRid v).advance ∧
      FrameRead c s ((loadEntry c e s).updateRid v).advance :=
  ⟨loadEntry_regs c e s _ (by rw [advance_cp0, updateRid_cp0]),
   updateRid_becomes s _ v (g1_loadEntry c e s).symm (setCp0_guestCtl1 ..).symm, frameRead_updateRid ..⟩

/-- What a read of an invalid entry leaves, RID included. -/
theorem loadInvalid_updateRid (c : Ctx) (s : State) (v : BitVec 8) :
    RegsHoldInvalid c s ((loadInvalid c s).updateRid v).advance ∧
      RidBecomes v s ((loadInvalid c s).updateRid v).advance ∧
      FrameRead c s ((loadInvalid c s).updateRid v).advance :=
  ⟨loadInvalid_regs c s _ (by rw [advance_cp0, updateRid_cp0]),
   updateRid_becomes s _ v (g1_loadInvalid c s).symm (setCp0_guestCtl1 ..).symm, frameRead_updateRid ..⟩

theorem effect_tlbgr_valid {s : State} (hidx : s.idx .guest < s.tlbEntries .guest)
    (hv : s.markedInvalid .guest (s.entry .guest (s.idx .guest)) = false) :
    instrEffect .tlbgr s = .ok ((loadEntry .guest (s.entry .guest (s.idx .guest)) s).updateRid
      (s.entry .guest (s.idx .guest)).guestId) := by
  simp only [instrEffect, Nat.not_le.2 hidx, hv, Bool.false_eq_true, if_false]

theorem effect_tlbgr_invalid {s : State} (hidx : s.idx .guest < s.tlbEntries .guest)
    (hv : s.markedInvalid .guest (s.entry .guest (s.idx .guest)) = true) :
    instrEffect .tlbgr s = .ok ((loadInvalid .guest s).updateRid 0#8) := by
  simp only [instrEffect, Nat.not_le.2 hidx, hv, if_false, if_true]

/-- Settles O47: the entry at Index, not marked. -/
theorem tlbgrLoadsAValidEntry : Obligations.TlbgrLoadsAValidEntry := by
  rintro s e h hidx rfl hv
  exact ⟨_, exec_of_effect (guards_guestTlb rfl h nofun) (effect_tlbgr_valid hidx (not_markedInvalid hv)),
    loadEntry_updateRid ..⟩

/-- Settles O48: the entry at Index, marked. -/
theorem tlbgrOfAnInvalidEntryReadsZeros : Obligations.TlbgrOfAnInvalidEntryReadsZeros := by
  intro s h hidx hie hinv
  exact ⟨_, exec_of_effect (guards_guestTlb rfl h nofun)
    (effect_tlbgr_invalid hidx ((markedInvalid_iff ..).2 ⟨hie, hinv⟩)), loadInvalid_updateRid ..⟩

/-- TLBR in root mode updates RID as TLBGR does. -/
theorem updateRidInRoot_of_root {s : State} (h : s.isRootMode = true) (v : BitVec 8) :
    s.updateRidInRoot v = s.updateRid v := if_pos h

theorem isRootMode_loadEntry (c : Ctx) (e : TlbEntry) (s : State) : (loadEntry c e s).isRootMode = s.isRootMode :=
  (KeepsModeRegs.loadEntry c e s).isRootMode

theorem isRootMode_loadInvalid (c : Ctx) (s : State) : (loadInvalid c s).isRootMode = s.isRootMode :=
  (KeepsModeRegs.loadInvalid c s).isRootMode

/-- TLBR in root mode: the entry at Index, marked or not. -/
theorem effect_tlbr_root {s : State} (hroot : s.isRootMode = true) (hidx : s.idx .root < s.tlbEntries .root) :
    instrEffect .tlbr s =
      if s.markedInvalid .root (s.entry .root (s.idx .root)) then .ok ((loadInvalid .root s).updateRid 0#8)
      else .ok ((loadEntry .root (s.entry .root (s.idx .root)) s).updateRid (s.entry .root (s.idx .root)).guestId) := by
  simp only [instrEffect, cur_of_root hroot, Nat.not_le.2 hidx, isGuestMode_of_root hroot, Bool.false_and,
    Bool.false_eq_true, if_false]
  rw [updateRidInRoot_of_root ((isRootMode_loadInvalid ..).trans hroot),
    updateRidInRoot_of_root ((isRootMode_loadEntry ..).trans hroot)]

/-- TLBR in guest mode: an entry that is marked, or another guest's, is shown as invalid; `GuestCtl1` is left alone. -/
theorem effect_tlbr_guest {s : State} (hguest : s.isGuestMode = true) (hidx : s.idx .guest < s.tlbEntries .guest) :
    instrEffect .tlbr s =
      if s.markedInvalid .guest (s.entry .guest (s.idx .guest)) = true ∨
          s.gidOk s.id (s.entry .guest (s.idx .guest)) = false then .ok (loadInvalid .guest s)
      else .ok (loadEntry .guest (s.entry .guest (s.idx .guest)) s) := by
  simp only [instrEffect, cur_of_guest hguest, Nat.not_le.2 hidx, if_false, hguest, Bool.true_and]
  rw [updateRidInRoot_of_guest ((isGuestMode_loadInvalid ..).trans hguest),
    updateRidInRoot_of_guest ((isGuestMode_loadEntry ..).trans hguest)]
  cases s.markedInvalid .guest (s.entry .guest (s.idx .guest)) <;>
    cases s.gidOk s.id (s.entry .guest (s.idx .guest)) <;> simp

/-- Settles O49: in root mode TLBR reads the root's entry as TLBGR reads the guest's. -/
theorem tlbrInRootModeLoadsTheEntry : Obligations.TlbrInRootModeLoadsTheEntry := by
  intro s e h hroot hidx he
  have hg : instrGuards .tlbr s = .ok () := guards_baseTlb rfl h nofun
  have heff := effect_tlbr_root hroot hidx
  rw [idx_root, ← he] at heff
  by_cases hv : s.markedInvalid .root e = true
  · obtain ⟨hie, hinv⟩ := (markedInvalid_iff s .root e).1 hv
    obtain ⟨hregs, hrid, hframe⟩ := loadInvalid_updateRid .root s 0#8
    refine ⟨_, exec_of_effect hg (heff.trans (if_pos hv)), hframe, fun hok => ?_, fun _ _ => ⟨hregs, hrid⟩⟩
    rw [not_markedInvalid (c := .root) hok] at hv
    cases hv
  · obtain ⟨hregs, hrid, hframe⟩ := loadEntry_updateRid .root e s e.guestId
    refine ⟨_, exec_of_effect hg (heff.trans (if_neg hv)), hframe, fun _ => ⟨hregs, hrid⟩, fun hie hinv => ?_⟩
    exact absurd ((markedInvalid_iff s .root e).2 ⟨hie, hinv⟩) hv

/-- The guest may see an entry: it is not marked, and is the guest's own. -/
theorem shown_iff (s : State) (e : TlbEntry) :
    (s.guest.ie < 2 ∨ e.hardwareInvalid = false) ∧ OwnedBy s.id s e ↔
      ¬(s.markedInvalid .guest e = true ∨ s.gidOk s.id e = false) := by
  rw [← gidOk_iff, markedInvalid_iff, not_or, Bool.not_eq_false, not_and_or, Bool.not_eq_true, Nat.not_le]
  rfl

/-- Settles O50: in guest mode TLBR loads the entries the guest may see, and shows the others as invalid. -/
theorem tlbrInGuestModeHidesOtherGuests : Obligations.TlbrInGuestModeHidesOtherGuests := by
  rintro s e h hguest hidx rfl
  have hg : instrGuards .tlbr s = .ok () := guards_baseTlb rfl h nofun
  have heff := effect_tlbr_guest hguest hidx
  by_cases hhide : s.markedInvalid .guest (s.entry .guest (s.idx .guest)) = true ∨
      s.gidOk s.id (s.entry .guest (s.idx .guest)) = false
  · exact ⟨_, exec_of_effect hg (heff.trans (if_pos hhide)), frameCp0_setCp0 ..,
      fun hshow => absurd hhide ((shown_iff ..).1 hshow), fun _ => loadInvalid_regs .guest s _ (advance_cp0 ..)⟩
  · exact ⟨_, exec_of_effect hg (heff.trans (if_neg hhide)), frameCp0_setCp0 ..,
      fun _ => loadEntry_regs .guest _ s _ (advance_cp0 ..), fun hno => absurd ((shown_iff ..).2 hhide) hno⟩

/-! ### Writes (R137 to R140, R165, R166) -/

theorem indexedWrite_eq {c : Ctx} {g : Bool} {gid : BitVec 8} {s : State} (h : s.idx c < s.tlbEntries c) :
    indexedWrite c g gid s = checkedWrite c (s.idx c) g gid s := if_neg (Nat.not_le.2 h)

theorem randomWrite_eq {c : Ctx} {g : Bool} {gid : BitVec 8} {s : State} (h : 0 < s.vtlbEntries c) :
    randomWrite c g gid s = (checkedWrite c (s.randomIndex c) g gid s).map (·.randomMoved c) := by
  rw [randomWrite, if_neg (randomBound_ne_zero h)]
  cases checkedWrite c (s.randomIndex c) g gid s <;> rfl

theorem admitted_randomIndex {s : State} {c : Ctx} (h : 0 < s.vtlbEntries c) : Admitted c s (s.randomIndex c) :=
  admitted_of_lt_randomBound (randomIndex_lt s c (randomBound_ne_zero h))

/-- An indexed write within its premise writes the entry at Index. -/
theorem exec_indexedWrite {i : Instr} {s : State} {c : Ctx} {g : Bool} {gid : BitVec 8} (hg : instrGuards i s = .ok ())
    (he : instrEffect i s = indexedWrite c g gid s) (hidx : s.idx c < s.tlbEntries c)
    (hw : WriteAllowed c (s.idx c) g gid s) : ∃ t, exec i s = .next t ∧ WroteEntry c (s.idx c) g gid s t :=
  ⟨_, exec_of_effect hg (by rw [he, indexedWrite_eq hidx, checkedWrite_of_allowed hw]), writeEntry_wrote c _ g gid s⟩

/-- A random write within its premise writes the entry drawn. -/
theorem exec_randomWrite {i : Instr} {s : State} {c : Ctx} {g : Bool} {gid : BitVec 8} (hg : instrGuards i s = .ok ())
    (he : instrEffect i s = randomWrite c g gid s) (hv : 0 < s.vtlbEntries c)
    (hw : WriteAllowed c (s.randomIndex c) g gid s) :
    ∃ t, exec i s = .next t ∧ WroteEntryAtRandom c (s.randomIndex c) g gid s t := by
  have heff : instrEffect i s = .ok ((writeEntry c (s.randomIndex c) g gid s).randomMoved c) := by
    rw [he, randomWrite_eq hv, checkedWrite_of_allowed hw]
    rfl
  exact ⟨_, exec_of_effect hg heff, writeEntry_wroteAtRandom c _ g gid s⟩

theorem effect_tlbwi (s : State) : instrEffect .tlbwi s = indexedWrite s.cur (baseG s) s.curGid s := by
  rw [← gForBase_eq]
  rfl

theorem effect_tlbwr (s : State) : instrEffect .tlbwr s = randomWrite s.cur (baseG s) s.curGid s := by
  rw [← gForBase_eq]
  rfl

/-- Settles O51: the indexed write of the guest registers. -/
theorem tlbgwiWritesTheIndexedEntry : Obligations.TlbgwiWritesTheIndexedEntry := fun _ h hidx hw =>
  exec_indexedWrite (guards_guestTlb rfl h nofun) rfl hidx hw

/-- Settles O52: the random write of the guest registers. -/
theorem tlbgwrWritesOneAdmittedEntry : Obligations.TlbgwrWritesOneAdmittedEntry := fun _ h hv =>
  ⟨admitted_randomIndex hv, fun hw => exec_randomWrite (guards_guestTlb rfl h nofun) rfl hv hw⟩

/-- Settles O53: the indexed write of the executing context's registers. -/
theorem tlbwiWritesTheIndexedEntry : Obligations.TlbwiWritesTheIndexedEntry := fun s h hidx hw =>
  exec_indexedWrite (guards_baseTlb rfl h nofun) (effect_tlbwi s) hidx hw

/-- Settles O54: the random write of the executing context's registers. -/
theorem tlbwrWritesOneAdmittedEntry : Obligations.TlbwrWritesOneAdmittedEntry := fun s h hv =>
  ⟨admitted_randomIndex hv, fun hw => exec_randomWrite (guards_baseTlb rfl h nofun) (effect_tlbwr s) hv hw⟩

/-! ### Writes outside their premise (R140) -/

/-- Marking entries other than entry `n`, seen from the ends of two instructions that differ in it. -/
theorem markedOthers_of_tlb {c : Ctx} {n : Nat} {u t w : State} (hframe : t = u.setTlb c (t.tlb c))
    (hu : u.tlb c = w.tlb c) (ht : t.tlb c = (invalidateOthers c n w).tlb c) : MarkedOthers c n u t := by
  have hlen : ((invalidateOthers c n w).tlb c).length = (w.tlb c).length := length_invalidateOthers c n w
  refine ⟨hframe, by rw [ht, hu, hlen], ?_, fun m e hm => ?_⟩
  · rw [ht, hu]
    cases he : (w.tlb c)[n]? with
    | none =>
      rw [List.getElem?_eq_none_iff] at he ⊢
      omega
    | some e =>
      obtain hsame | ⟨hne, -⟩ := getElem?_invalidateOthers c n w n e he
      · exact hsame
      · exact absurd rfl hne
  · rw [ht]
    rw [hu] at hm
    exact (getElem?_invalidateOthers c n w m e hm).imp_right And.right

/-- A checked write, with what an instruction does after it, has one of R140's three outcomes. -/
theorem conflictOutcomes_of_checkedWrite {i : Instr} {s : State} {c : Ctx} {n : Nat} {g : Bool} {gid : BitVec 8}
    {after : State → State} {wrote : State → Prop} (hg : instrGuards i s = .ok ())
    (he : instrEffect i s = (checkedWrite c n g gid s).map after)
    (hwrote : wrote (after (writeEntry c n g gid s)).advance)
    (hmarked : MarkedOthers c n (after (writeEntry c n g gid s)).advance
      (after (invalidateOthers c n (writeEntry c n g gid s))).advance) :
    ConflictOutcomes c n g gid wrote s (exec i s) := by
  rw [exec_of_guards hg, he]
  obtain hok | ⟨hc, hothers⟩ | ⟨hc, hmc⟩ := checkedWrite_cases c n g gid s
  · rw [hok]
    exact .inl ⟨_, rfl, hwrote⟩
  · rw [hothers]
    exact .inr (.inl ⟨not_allowed_of_writeConflict hc, _, _, rfl, hwrote, hmarked⟩)
  · rw [hmc]
    exact .inr (.inr ⟨not_allowed_of_writeConflict hc, rfl⟩)

theorem conflictOutcomes_indexedWrite {i : Instr} {s : State} {c : Ctx} {g : Bool} {gid : BitVec 8}
    (hg : instrGuards i s = .ok ()) (he : instrEffect i s = indexedWrite c g gid s) (hidx : s.idx c < s.tlbEntries c) :
    ConflictOutcomes c (s.idx c) g gid (WroteEntry c (s.idx c) g gid s) s (exec i s) := by
  refine conflictOutcomes_of_checkedWrite (after := id) hg ?_ (writeEntry_wrote ..)
    (markedOthers_of_tlb (w := writeEntry c (s.idx c) g gid s) ?_ ?_ ?_)
  · rw [he, indexedWrite_eq hidx]
    cases checkedWrite c (s.idx c) g gid s <;> rfl
  · rw [invalidateOthers_frame]
    cases c <;> rfl
  · exact advance_tlb ..
  · exact advance_tlb ..

theorem conflictOutcomes_randomWrite {i : Instr} {s : State} {c : Ctx} {g : Bool} {gid : BitVec 8}
    (hg : instrGuards i s = .ok ()) (he : instrEffect i s = randomWrite c g gid s) (hv : 0 < s.vtlbEntries c) :
    ConflictOutcomes c (s.randomIndex c) g gid (WroteEntryAtRandom c (s.randomIndex c) g gid s) s (exec i s) := by
  refine conflictOutcomes_of_checkedWrite (after := (·.randomMoved c)) hg ?_ (writeEntry_wroteAtRandom ..)
    (markedOthers_of_tlb (w := writeEntry c (s.randomIndex c) g gid s) ?_ ?_ ?_)
  · rw [he, randomWrite_eq hv]
  · rw [invalidateOthers_frame]
    cases c <;> rfl
  · exact (advance_tlb ..).trans (setCp0_tlb ..)
  · exact (advance_tlb ..).trans (setCp0_tlb ..)

/-- Settles O55: the four writes are checked writes, at Index or at the entry drawn. -/
theorem conflictingWriteHasOneOfThreeOutcomes : Obligations.ConflictingWriteHasOneOfThreeOutcomes :=
  ⟨fun _ h hidx => conflictOutcomes_indexedWrite (guards_guestTlb rfl h nofun) rfl hidx,
   fun _ h hv => ⟨_, admitted_randomIndex hv, conflictOutcomes_randomWrite (guards_guestTlb rfl h nofun) rfl hv⟩,
   fun s h hidx => conflictOutcomes_indexedWrite (guards_baseTlb rfl h nofun) (effect_tlbwi s) hidx,
   fun s h hv =>
    ⟨_, admitted_randomIndex hv, conflictOutcomes_randomWrite (guards_baseTlb rfl h nofun) (effect_tlbwr s) hv⟩⟩

end Sys2Proof.Machine
end

section
/-! Two TLB instructions in a row (O56, O57): what TLBGWI wrote is what TLBGR reads, and after TLBGINVF over a JTLB
TLBGP finds nothing. -/

namespace Sys2Proof.Machine

/-! ### A written entry read back (R136, R139) -/

/-- Clearing the bits under a mask twice is clearing them once. -/
theorem clearUnder_clearUnder {w : Nat} (a b : Bool) (v : BitVec w) (mask : BitVec 16) :
    clearUnder b (clearUnder a v mask) mask = clearUnder (a || b) v mask := by
  cases a <;> cases b <;> simp [clearUnder, BitVec.and_assoc]

/-- An EntryLo written to an entry and read back: PFN with the mask bits cleared on either way, C, D, V and the G
given. -/
theorem makeLo_readBack (onWrite onRead : Bool) (high : BitVec 34) (lo : Word) (mask : BitVec 16) (g : Bool) {x : Word}
    (hx : x = makeLo high (clearUnder onRead (clearUnder onWrite (loPfn lo) mask) mask) (loC lo) (loD lo) (loV lo) g) :
    loPfn x = clearUnder (onWrite || onRead) (loPfn lo) mask ∧ x.extractLsb' 1 5 = lo.extractLsb' 1 5 ∧ loG x = g := by
  subst hx
  obtain ⟨hpfn, -, -, -, hg, -⟩ := makeLo_fields high (clearUnder onRead (clearUnder onWrite (loPfn lo) mask) mask)
    (loC lo) (loD lo) (loV lo) g
  refine ⟨hpfn.trans (clearUnder_clearUnder ..), ?_, hg⟩
  ext b hb
  rw [BitVec.getElem_extractLsb', BitVec.getElem_extractLsb', getLsbD_makeLo]
  interval_cases b <;> simp [loC, loD, loV]

/-- `PageMask.Mask` reads back what was put there. -/
theorem pmMask_putMask (cfg : Config) (v v' : Half) : pmMask cfg (putMask v (pmMask cfg v')) = pmMask cfg v' := by
  rw [pmMask, putMask, extract_putField _ _ _ (by decide), pmMask, BitVec.and_assoc, BitVec.and_self]

/-- `RID` reads back what was put there, where that fits `GuestIDBits`. -/
theorem rid_setRid (s : State) (v : BitVec 8) : (s.setRid v).rid = v &&& lowMask 8 s.cfg.guestIdBits := by
  rw [State.rid, setRid_guestCtl1, extract_putField _ _ _ (by decide), setRid_cfg]

theorem rid_and_lowMask (s : State) : s.rid &&& lowMask 8 s.cfg.guestIdBits = s.rid := by
  rw [State.rid, BitVec.and_assoc, BitVec.and_self]

theorem entry_writeEntry {c : Ctx} {n : Nat} {g : Bool} {gid : BitVec 8} {s : State} (h : n < (s.tlb c).length) :
    (writeEntry c n g gid s).entry c n = newEntry c g gid s (s.entry c n) := by
  simp [State.entry, writeEntry, h]

/-- The entry written without EHINV is not marked invalid. -/
theorem newEntry_notMarked {c : Ctx} {g : Bool} {gid : BitVec 8} {s t : State} {old : TlbEntry}
    (hk : t.cp0 c = s.cp0 c) (h : (s.cp0 c).ehinv = false) : t.markedInvalid c (newEntry c g gid s old) = false := by
  rw [State.markedInvalid, hk]
  cases hi : (s.cp0 c).hasInvalid
  · rfl
  · simp [newEntry, hi, h]

theorem length_of_wf {s : State} (hwf : s.wf = true) (c : Ctx) : (s.tlb c).length = s.tlbEntries c := by
  obtain ⟨-, -, -, -, -, hctx, -⟩ := (wf_iff s).1 hwf
  exact ((ctxOk_iff s c).1 (hctx c)).1

/-- A completed TLBGWI within its premise, seen from its next state. -/
theorem tlbgwi_next {s t : State} (hw : WriteAllowed .guest (s.idx .guest) (s.gAnd .guest) s.rid s)
    (h : exec .tlbgwi s = .next t) :
    s.idx .guest < s.tlbEntries .guest ∧ t = (writeEntry .guest (s.idx .guest) (s.gAnd .guest) s.rid s).advance := by
  obtain ⟨-, u, hu, rfl⟩ := exec_next h
  obtain ⟨hidx, hc⟩ := indexedWrite_ok (show indexedWrite .guest (s.gAnd .guest) s.rid s = .ok u from hu)
  rw [checkedWrite_of_allowed hw] at hc
  cases hc
  exact ⟨hidx, rfl⟩

/-- A completed TLBGR of an entry that is not marked, seen from its next state. -/
theorem tlbgr_next {t u : State} {e : TlbEntry} (he : t.entry .guest (t.idx .guest) = e)
    (hv : t.markedInvalid .guest e = false) (h : exec .tlbgr t = .next u) :
    u = ((loadEntry .guest e t).updateRid e.guestId).advance := by
  obtain ⟨-, w, hu, rfl⟩ := exec_next h
  have hidx : t.idx .guest < t.tlbEntries .guest := by
    by_contra hn
    rw [instrEffect, if_pos (Nat.le_of_not_lt hn)] at hu
    cases hu
  rw [← he] at hv
  rw [effect_tlbgr_valid hidx hv, he] at hu
  cases hu
  rfl

/-- `GuestCtl1.RID` after TLBGWI and TLBGR of the entry it wrote. -/
theorem rid_updateRid_newEntry {s w : State} {c : Ctx} {g : Bool} {old : TlbEntry} (hg : w.g1 = s.g1)
    (hctl : w.guestCtl1 = s.guestCtl1) (hcfg : w.cfg = s.cfg) :
    (w.updateRid (newEntry c g s.rid s old).guestId).rid = s.rid := by
  have hw : w.rid = s.rid := by rw [State.rid, State.rid, hctl, hcfg]
  unfold State.updateRid
  split
  next h1 =>
    rw [rid_setRid, hcfg, newEntry, if_pos (hg.symm.trans h1), rid_and_lowMask]
  next => exact hw

/-- The registers after the entry written from `s` is read back in a state with the same registers and configuration. -/
theorem loadEntry_newEntry {s t : State} {g : Bool} {gid : BitVec 8} {old : TlbEntry} (hcfg : t.cfg = s.cfg)
    (hguest : t.guest = s.guest) {k : Cp0} (hk : k = (loadEntry .guest (newEntry .guest g gid s old) t).guest) :
    k.entryHi = hiR s.guest.entryHi ++ clearUnder (s.cfg.tlbMaskOnWrite || s.cfg.tlbMaskOnRead)
        (hiVpn2 s.cfg s.guest.entryHi) (pmMask s.cfg s.guest.pageMask) ++ 0#5 ++ hiAsid s.cfg s.guest.entryHi ∧
      k.entryLo0 = makeLo (t.readHigh (Config.freeHighBits0 t.draws)) (clearUnder s.cfg.tlbMaskOnRead
        (clearUnder s.cfg.tlbMaskOnWrite (loPfn s.guest.entryLo0) (pmMask s.cfg s.guest.pageMask))
        (pmMask s.cfg s.guest.pageMask)) (loC s.guest.entryLo0) (loD s.guest.entryLo0) (loV s.guest.entryLo0) g ∧
      k.entryLo1 = makeLo (t.readHigh (Config.freeHighBits1 t.draws)) (clearUnder s.cfg.tlbMaskOnRead
        (clearUnder s.cfg.tlbMaskOnWrite (loPfn s.guest.entryLo1) (pmMask s.cfg s.guest.pageMask))
        (pmMask s.cfg s.guest.pageMask)) (loC s.guest.entryLo1) (loD s.guest.entryLo1) (loV s.guest.entryLo1) g ∧
      pmMask s.cfg k.pageMask = pmMask s.cfg s.guest.pageMask := by
  subst hk
  rw [loadEntry, setCp0_guest_guest, hcfg, cp0_guest, hguest]
  refine ⟨?_, rfl, rfl, pmMask_putMask ..⟩
  rw [← clearUnder_clearUnder]
  rfl

/-- Settles O56: the read loads the entry the write made, and each field survives both ways. -/
theorem writtenGuestEntryReadsBack : Obligations.WrittenGuestEntryReadsBack := by
  intro s t u hwf hinv hw ht hu
  obtain ⟨hidx, htlb⟩ := tlbgwi_next hw ht
  have hcfg : t.cfg = s.cfg := by rw [htlb]; rfl
  have hguest : t.guest = s.guest := by rw [htlb]; rfl
  have hentry : t.entry .guest (t.idx .guest) =
      newEntry .guest (s.gAnd .guest) s.rid s (s.entry .guest (s.idx .guest)) := by
    rw [htlb]
    exact entry_writeEntry ((length_of_wf hwf .guest).symm ▸ hidx)
  have hu := tlbgr_next hentry (newEntry_notMarked hguest hinv) hu
  obtain ⟨hhi, hlo0, hlo1, hmask⟩ := loadEntry_newEntry (k := u.guest) hcfg hguest
    (by rw [hu, advance_guest, updateRid_guest])
  obtain ⟨hpfn0, hbits0, hg0⟩ := makeLo_readBack _ _ _ _ _ _ hlo0
  obtain ⟨hpfn1, hbits1, hg1⟩ := makeLo_readBack _ _ _ _ _ _ hlo1
  have hgand : s.gAnd .guest = (loG s.guest.entryLo0 && loG s.guest.entryLo1) := Bool.and_comm ..
  have hrid : u.rid = s.rid := by
    rw [hu]
    refine rid_updateRid_newEntry (w := loadEntry .guest _ t) ?_ ?_ ?_
    · rw [g1_loadEntry, htlb]; rfl
    · rw [loadEntry, setCp0_guestCtl1, htlb]; rfl
    · rw [loadEntry, setCp0_cfg, hcfg]
  exact ⟨hhi, hpfn0, hpfn1, hbits0, hbits1, hg0.trans hgand, hg1.trans hgand, hmask, hrid⟩

/-! ### A flushed TLB (R134, R135) -/

/-- A completed TLBGINVF has marked exactly the range and the GuestID, and the guest has the invalid bit. -/
theorem tlbginvf_next {s t : State} (h : exec .tlbginvf s = .next t) :
    2 ≤ s.guest.ie ∧ s.guest.hasTlb = true ∧ Invalidated .guest (OwnedBy s.rid s) s t := by
  obtain ⟨hg, u, hu, rfl⟩ := exec_next h
  obtain ⟨-, -, -, htlb, hinv⟩ := tlbgGuards_ok.1 (show tlbgGuards true s = .ok () from hg)
  obtain ⟨range, hr, rfl⟩ := invalidation_ok (show invalidation .guest (s.gidOk s.rid) s = .ok u from hu)
  exact ⟨(hasInvalid_iff _).1 (hinv rfl), htlb,
    invalidateWhere_invalidated .guest range _ _ s (invRange_ok hr htlb).2 (gidOk_iff s s.rid)⟩

/-- A well-formed JTLB is in the range of an invalidation as a whole (R7, R131). -/
theorem inRange_of_jtlb {s : State} {c : Ctx} (hwf : s.wf = true) (hmt : (s.cp0 c).mt = 1) {n : Nat}
    (hn : n < (s.tlb c).length) : InRange c s n := by
  obtain ⟨-, -, -, -, -, hctx, -⟩ := (wf_iff s).1 hwf
  obtain ⟨hlen, -, hftlb, -⟩ := (ctxOk_iff s c).1 (hctx c)
  obtain ⟨hways, -⟩ := hftlb.resolve_left (not_not_intro hmt)
  rw [hlen, State.tlbEntries, tlbEntries, hways, Nat.zero_mul] at hn
  rw [InRange, if_pos hmt]
  exact hn

/-- After TLBGINVF over a well-formed JTLB without GuestID, every entry is marked. -/
theorem all_marked_of_flush {s t : State} (hwf : s.wf = true) (hmt : s.guest.mt = 1) (hg1 : s.g1 = false)
    (h : exec .tlbginvf s = .next t) : ∀ e ∈ t.guestTlb, e.hardwareInvalid = true := by
  obtain ⟨-, -, -, hlen, hmarks⟩ := tlbginvf_next h
  intro e he
  obtain ⟨n, hn, rfl⟩ := List.mem_iff_getElem.1 he
  have hns : n < (s.tlb .guest).length := Nat.lt_of_lt_of_eq hn hlen
  have hmark := (hmarks n _ (List.getElem?_eq_getElem hns)).1
    ⟨inRange_of_jtlb (c := .guest) hwf hmt hns, fun h1 => by simp [hg1] at h1⟩
  rw [tlb_guest, List.getElem?_eq_getElem hn] at hmark
  exact congrArg TlbEntry.hardwareInvalid (Option.some.inj hmark)

theorem tlbEntries_le_of_wf {s : State} (hwf : s.wf = true) (c : Ctx) : s.tlbEntries c ≤ 2 ^ 31 := by
  obtain ⟨-, -, -, -, hcfg, -⟩ := (wf_iff s).1 hwf
  simp only [configOk, ctxConfigOk, Bool.and_eq_true, decide_eq_true_eq] at hcfg
  cases c <;> simp only [State.tlbEntries, ctxConfig, hcfg]

/-- Settles O57: a probe reports no marked entry, and the flush has marked them all. -/
theorem flushedGuestTlbHoldsNoMatch : Obligations.FlushedGuestTlbHoldsNoMatch := by
  intro s t u hwf hmt hg1 ht hu
  have hall := all_marked_of_flush hwf hmt hg1 ht
  refine ⟨List.all_eq_true.2 hall, ?_⟩
  by_contra hbit
  have htwf : t.wf = true := exec_wf hwf ht
  obtain ⟨hlt, -, -, hvalid, -⟩ := probesReportOnlyMatchingEntries.1 t u (tlbEntries_le_of_wf htwf .guest) hu
    (Bool.not_eq_true _ ▸ hbit)
  have hie : ¬t.guest.ie < 2 := by
    rw [ie_of_exec ht]
    exact Nat.not_lt.2 (tlbginvf_next ht).1
  rw [← length_of_wf htwf .guest, tlb_guest] at hlt
  have hmarked := hall _ (List.getElem_mem hlt)
  have hunmarked := hvalid.resolve_left hie
  rw [State.entry, tlb_guest, List.getElem?_eq_getElem hlt, Option.getD_some, hmarked] at hunmarked
  cases hunmarked

end Sys2Proof.Machine
end

section
/-! R168 (O58): each TLBG instruction in root mode does to the guest context what its base counterpart does in guest
mode. The shared operations read nothing but the guest context, its TLB, the configuration, the draws and the GuestID, so they
agree on two states that agree in these. -/

namespace Sys2Proof.Machine

/-! ### Agreement on the guest -/

/-- A root-mode state `s` and a guest-mode state `u` agree in all that the TLB operations on the guest context read. -/
structure SameGuest (s u : State) : Prop where
  rootAccess : RootAccess s
  guestMode : u.isGuestMode = true
  guest : s.guest = u.guest
  guestTlb : s.guestTlb = u.guestTlb
  cfg : s.cfg = u.cfg
  draws : s.draws = u.draws
  g1 : s.g1 = u.g1
  gid : s.g1 = true → s.rid = u.id

/-- Two effects agree on the guest, as `AgreeOnGuest` says it of outcomes. -/
def AgreeEffect : Run State → Run State → Prop
  | .ok a, .ok b => a.guest = b.guest ∧ a.guestTlb = b.guestTlb
  | .error (.refuse a), .error (.refuse b) => a = b
  | .error (.fault (.trap a)), .error (.fault (.trap b)) => a.kind = b.kind
  | _, _ => False

theorem agreeOnGuest_finish {a b : Run State} (h : AgreeEffect a b) : AgreeOnGuest (finish a) (finish b) := by
  unfold AgreeEffect at h
  split at h
  · exact h
  · exact h
  · exact h
  · exact h.elim

/-- Effects that agree both complete, with the same guest, or both stop. -/
theorem agreeEffect_cases {a b : Run State} (h : AgreeEffect a b) :
    (∃ v w, a = .ok v ∧ b = .ok w ∧ v.guest = w.guest ∧ v.guestTlb = w.guestTlb) ∨
      ∃ e e', a = .error e ∧ b = .error e' := by
  unfold AgreeEffect at h
  split at h
  next v w => exact .inl ⟨v, w, rfl, rfl, h⟩
  next => exact .inr ⟨_, _, rfl, rfl⟩
  next => exact .inr ⟨_, _, rfl, rfl⟩
  next => exact h.elim

theorem agreeEffect_refuse (r : Refusal) : AgreeEffect (refuse r) (refuse r) := rfl

theorem agreeEffect_raise (k : ExcKind) (s u : State) : AgreeEffect (raise k s) (raise k u) := rfl

namespace SameGuest
variable {s u : State}

/-! ### The guards (R130, R160) -/

/-- A TLBG instruction and a base instruction whose effects agree, both or neither of them an invalidation. -/
theorem agree_exec (h : SameGuest s u) (hm : u.modeHasNoMeaning = false) (hc : u.cp0Enabled = true) {i j : Instr}
    (hi : family i = .guestTlb) (hj : family j = .baseTlb) (hx : needsExtra i = needsExtra j)
    (he : AgreeEffect (instrEffect i s) (instrEffect j u)) : AgreeOnGuest (exec i s) (exec j u) := by
  have hcur : u.cp0 u.cur = s.guest := by rw [cur_of_guest h.guestMode, cp0_guest, h.guest]
  cases htlb : s.guest.hasTlb with
  | false =>
    rw [exec_of_guards_refuse (guards_guestTlb_noTlb hi h.rootAccess htlb),
      exec_of_guards_refuse (guards_baseTlb_noTlb hj hm hc (hcur ▸ htlb))]
    rfl
  | true =>
    have haccess : GuestTlbAccess s := ⟨h.rootAccess, htlb⟩
    have haccess' : BaseTlbAccess u := ⟨hm, hc, hcur ▸ htlb⟩
    by_cases hok : needsExtra i = true → 2 ≤ s.guest.ie
    · rw [exec_of_guards (guards_guestTlb hi haccess hok),
        exec_of_guards (guards_baseTlb hj haccess' (by rw [hcur, ← hx]; exact hok))]
      exact agreeOnGuest_finish he
    · obtain ⟨hextra, hie⟩ := Classical.not_imp.1 hok
      rw [exec_of_guards_raise (guards_guestTlb_noInvalid hi hextra haccess (Nat.lt_of_not_le hie)),
        exec_of_guards_raise (guards_baseTlb_noInvalid hj (hx ▸ hextra) haccess'
          (by rw [hcur]; exact Nat.lt_of_not_le hie))]
      rfl

/-! ### What the operations read -/

/-- The two states differ outside of what they agree in. -/
theorem eq_update (h : SameGuest s u) :
    u = { s with gpr := u.gpr, pc := u.pc, root := u.root, guestCtl0 := u.guestCtl0, guestCtl1 := u.guestCtl1,
                 debugReg := u.debugReg, rootTlb := u.rootTlb, mem := u.mem } := by
  rw [h.guest, h.guestTlb, h.cfg, h.draws]

theorem entry (h : SameGuest s u) (n : Nat) : s.entry .guest n = u.entry .guest n := by
  simp only [State.entry, tlb_guest, h.guestTlb]

theorem idx (h : SameGuest s u) : s.idx .guest = u.idx .guest := by rw [idx_guest, idx_guest, h.guest]

theorem tlbEntries (h : SameGuest s u) : s.tlbEntries .guest = u.tlbEntries .guest := by
  rw [State.tlbEntries, State.tlbEntries, h.cfg]

theorem gidOk (h : SameGuest s u) : s.gidOk s.rid = u.gidOk u.id := by
  funext e
  rw [State.gidOk, State.gidOk, ← h.g1]
  cases hg : s.g1 with
  | false => rfl
  | true => rw [h.gid hg]

theorem asidTest (h : SameGuest s u) : asidTest .guest s.rid s = asidTest .guest u.id u := by
  funext e
  simp only [Machine.asidTest, cp0_guest, h.guest, h.cfg, h.gidOk]

theorem invRange (h : SameGuest s u) : invRange .guest s = invRange .guest u :=
  (congrArg (Machine.invRange .guest) h.eq_update).symm

theorem inFtlb (h : SameGuest s u) (n : Nat) : s.inFtlb .guest n = u.inFtlb .guest n :=
  (congrArg (fun v => v.inFtlb .guest n) h.eq_update).symm

theorem randomBound (h : SameGuest s u) : s.randomBound .guest = u.randomBound .guest :=
  (congrArg (fun v => v.randomBound .guest) h.eq_update).symm

theorem markedInvalid (h : SameGuest s u) (e : TlbEntry) : s.markedInvalid .guest e = u.markedInvalid .guest e := by
  simp only [State.markedInvalid, cp0_guest, h.guest]

theorem hits (h : SameGuest s u) : hits .guest s.rid s = hits .guest u.id u := by
  simp only [Machine.hits, probeMatch, State.notInvalid, cp0_guest, h.tlbEntries, h.entry, h.guest, h.cfg, h.gidOk]

/-- The GuestID plays a part in a written entry only where it is supported. -/
theorem newEntry (h : SameGuest s u) (g : Bool) (old : TlbEntry) :
    newEntry .guest g s.rid s old = newEntry .guest g u.id u old := by
  have hgid : (if s.g1 then s.rid else old.guestId) = if u.g1 then u.id else old.guestId := by
    rw [← h.g1]
    cases hg : s.g1 with
    | false => rfl
    | true => rw [h.gid hg]
  calc Machine.newEntry .guest g s.rid s old
      = { Machine.newEntry .guest g s.rid s old with guestId := if s.g1 then s.rid else old.guestId } := rfl
    _ = { Machine.newEntry .guest g s.rid s old with guestId := if u.g1 then u.id else old.guestId } := by rw [hgid]
    _ = Machine.newEntry .guest g u.id u old :=
      (congrArg (fun v => Machine.newEntry .guest g u.id v old) h.eq_update).symm

theorem writeConflict (h : SameGuest s u) (n : Nat) (g : Bool) :
    writeConflict .guest n g s.rid s = writeConflict .guest n g u.id u := by
  simp only [Machine.writeConflict, multipleMatch, ftlbMisuse, State.overlaps, State.notInvalid, State.maskField,
    cp0_guest, h.inFtlb, h.tlbEntries, h.entry, h.newEntry, h.guest, h.cfg, h.g1]

theorem gAnd (h : SameGuest s u) : s.gAnd .guest = u.gAnd .guest := by simp only [State.gAnd, cp0_guest, h.guest]

theorem randomIndex (h : SameGuest s u) : s.randomIndex .guest = u.randomIndex .guest := by
  rw [State.randomIndex, State.randomIndex, h.randomBound, h.draws]

/-! ### The base effects in guest mode (R167) -/

theorem curGid_of_guest {u : State} (h : u.isGuestMode = true) : u.curGid = u.id := if_pos h

theorem gForBase_of_guest {u : State} (h : u.isGuestMode = true) : u.gForBase = u.gAnd .guest := by
  simp [State.gForBase, isRootMode_eq, h, cur_of_guest h]

theorem effect_base (h : u.isGuestMode = true) :
    instrEffect .tlbinv u = invalidation .guest (Machine.asidTest .guest u.id u) u ∧
      instrEffect .tlbinvf u = invalidation .guest (u.gidOk u.id) u ∧
      instrEffect .tlbp u = probe .guest (Machine.hits .guest u.id u) u ∧
      instrEffect .tlbwi u = indexedWrite .guest (u.gAnd .guest) u.id u ∧
      instrEffect .tlbwr u = randomWrite .guest (u.gAnd .guest) u.id u := by
  simp only [instrEffect, cur_of_guest h, curGid_of_guest h, gForBase_of_guest h, and_self]

/-! ### The effects agree -/

theorem agree_invalidation (h : SameGuest s u) {test test' : TlbEntry → Bool} (ht : test = test') :
    AgreeEffect (invalidation .guest test s) (invalidation .guest test' u) := by
  subst ht
  unfold invalidation
  rw [h.invRange]
  cases hr : Machine.invRange .guest u with
  | error e =>
    rw [invRange_error hr]
    rfl
  | ok range => exact ⟨h.guest, congrArg (List.mapIdx _) h.guestTlb⟩

theorem agree_probe (h : SameGuest s u) (found : List Nat) :
    AgreeEffect (probe .guest found s) (probe .guest found u) := by
  have answer : ∀ {v : Half}, probeResult found s = .ok v → probeResult found u = .ok v →
      AgreeEffect (probe .guest found s) (probe .guest found u) := by
    intro v hs hu
    rw [probe_of_result hs, probe_of_result hu]
    exact ⟨congrArg (fun k : Cp0 => { k with index := v }) h.guest, h.guestTlb⟩
  match found with
  | [] => exact answer (v := 1#1 ++ Config.freeMissIndex s.draws) rfl (by rw [h.draws]; rfl)
  | [n] => exact answer (v := BitVec.ofNat 32 n) rfl rfl
  | m :: n :: rest =>
    by_cases hmc : Config.freeProbeMachineCheck s.draws = true
    · have hs : probeResult (m :: n :: rest) s = raise .machineCheck s := if_pos hmc
      have hu : probeResult (m :: n :: rest) u = raise .machineCheck u := if_pos (h.draws ▸ hmc)
      rw [probe, probe, hs, hu]
      rfl
    · exact answer (if_neg hmc) (by rw [h.draws]; exact if_neg (h.draws ▸ hmc))

theorem agree_writeEntry (h : SameGuest s u) (n : Nat) (g : Bool) :
    (writeEntry .guest n g s.rid s).guestTlb = (writeEntry .guest n g u.id u).guestTlb := by
  simp only [writeEntry, setTlb_guestTlb_guest, tlb_guest, h.guestTlb, h.newEntry, h.entry]

theorem agree_invalidateOthers {a b : State} (n : Nat) (hguest : a.guest = b.guest) (htlb : a.guestTlb = b.guestTlb)
    (hdraws : a.draws = b.draws) :
    (invalidateOthers .guest n a).guest = (invalidateOthers .guest n b).guest ∧
      (invalidateOthers .guest n a).guestTlb = (invalidateOthers .guest n b).guestTlb := by
  unfold invalidateOthers
  rw [cp0_guest, cp0_guest, tlb_guest, tlb_guest, hguest, htlb, hdraws]
  split
  · exact ⟨hguest, rfl⟩
  · exact ⟨hguest, htlb⟩

theorem agree_checkedWrite (h : SameGuest s u) (n : Nat) (g : Bool) :
    AgreeEffect (checkedWrite .guest n g s.rid s) (checkedWrite .guest n g u.id u) := by
  have htlb := h.agree_writeEntry n g
  unfold checkedWrite
  rw [h.writeConflict, h.draws]
  split
  · split
    · exact ⟨h.guest, htlb⟩
    · exact agree_invalidateOthers n h.guest htlb h.draws
    · exact agreeEffect_raise ..
  · exact ⟨h.guest, htlb⟩

theorem agree_indexedWrite (h : SameGuest s u) (g : Bool) :
    AgreeEffect (indexedWrite .guest g s.rid s) (indexedWrite .guest g u.id u) := by
  unfold indexedWrite
  rw [h.tlbEntries, h.idx]
  split
  · exact agreeEffect_refuse _
  · exact h.agree_checkedWrite _ g

theorem checkedWrite_draws {c : Ctx} {n : Nat} {g : Bool} {gid : BitVec 8} {s u : State}
    (h : checkedWrite c n g gid s = .ok u) : u.draws = s.draws := by rw [checkedWrite_frame h, setTlb_draws]

theorem agree_randomWrite (h : SameGuest s u) (g : Bool) :
    AgreeEffect (randomWrite .guest g s.rid s) (randomWrite .guest g u.id u) := by
  unfold randomWrite
  rw [h.randomBound, h.randomIndex]
  split
  · exact agreeEffect_refuse _
  · have hw := h.agree_checkedWrite (u.randomIndex .guest) g
    obtain ⟨a, b, hs, hu, hguest, htlb⟩ | ⟨e, e', hs, hu⟩ := agreeEffect_cases hw
    · have hdraws : a.draws = b.draws := by rw [checkedWrite_draws hs, checkedWrite_draws hu, h.draws]
      rw [hs, hu]
      refine ⟨?_, htlb⟩
      rw [State.randomMoved, State.randomMoved, setCp0_guest_guest, setCp0_guest_guest, cp0_guest, cp0_guest, hguest,
        hdraws]
    · rw [hs, hu] at hw ⊢
      exact hw

theorem loadEntry_guest (h : SameGuest s u) (e : TlbEntry) :
    (loadEntry .guest e s).guest = (loadEntry .guest e u).guest :=
  (congrArg (fun v => (loadEntry .guest e v).guest) h.eq_update).symm

theorem loadInvalid_guest (h : SameGuest s u) : (loadInvalid .guest s).guest = (loadInvalid .guest u).guest :=
  (congrArg (fun v => (loadInvalid .guest v).guest) h.eq_update).symm

/-- TLBGR and TLBR agree on the guest's own entry. -/
theorem agree_read (h : SameGuest s u) (hown : s.g1 = false ∨ (s.entry .guest (s.idx .guest)).guestId = u.id) :
    AgreeEffect (instrEffect .tlbgr s) (instrEffect .tlbr u) := by
  by_cases hidx : s.idx .guest < s.tlbEntries .guest
  · have hidx' : u.idx .guest < u.tlbEntries .guest := by rwa [← h.idx, ← h.tlbEntries]
    have hgid : u.gidOk u.id (u.entry .guest (u.idx .guest)) = true := by
      rw [State.gidOk, ← h.g1, ← h.idx, ← h.entry]
      rcases hown with hg | hg <;> rw [hg]
      · rfl
      · rw [beq_self_eq_true, Bool.or_true]
    rw [effect_tlbr_guest h.guestMode hidx', hgid, ← h.idx, ← h.entry, ← h.markedInvalid]
    cases hv : s.markedInvalid .guest (s.entry .guest (s.idx .guest)) with
    | true =>
      rw [effect_tlbgr_invalid hidx hv, if_pos (.inl rfl)]
      exact ⟨(updateRid_guest ..).trans h.loadInvalid_guest, (updateRid_guestTlb ..).trans h.guestTlb⟩
    | false =>
      rw [effect_tlbgr_valid hidx hv, if_neg (by simp)]
      exact ⟨(updateRid_guest ..).trans (h.loadEntry_guest _), (updateRid_guestTlb ..).trans h.guestTlb⟩
  · have hs : instrEffect .tlbgr s = refuse .indexBeyondTlb := if_pos (Nat.le_of_not_lt hidx)
    have hu : instrEffect .tlbr u = refuse .indexBeyondTlb := by
      rw [h.idx, h.tlbEntries] at hidx
      rw [instrEffect, cur_of_guest h.guestMode, if_pos (Nat.le_of_not_lt hidx)]
    rw [hs, hu]
    rfl

end SameGuest

/-! ### What the two reads do besides (R136, R164) -/

theorem idx_lt_of_tlbgr {s t : State} (h : exec .tlbgr s = .next t) : s.idx .guest < s.tlbEntries .guest := by
  obtain ⟨-, w, hw, -⟩ := exec_next h
  by_contra hn
  rw [instrEffect, if_pos (Nat.le_of_not_lt hn)] at hw
  cases hw

/-- TLBGR writes RID: 0 from a marked entry, the entry's GuestID otherwise. -/
theorem rid_of_tlbgr {s t : State} (h : exec .tlbgr s = .next t) :
    (2 ≤ s.guest.ie ∧ (s.entry .guest (s.idx .guest)).hardwareInvalid = true → RidBecomes 0#8 s t) ∧
      (s.guest.ie < 2 ∨ (s.entry .guest (s.idx .guest)).hardwareInvalid = false →
        RidBecomes (s.entry .guest (s.idx .guest)).guestId s t) := by
  have hidx := idx_lt_of_tlbgr h
  obtain ⟨-, w, hw, rfl⟩ := exec_next h
  refine ⟨fun hmark => ?_, fun hok => ?_⟩
  · rw [effect_tlbgr_invalid hidx ((markedInvalid_iff s .guest _).2 hmark)] at hw
    cases hw
    exact (loadInvalid_updateRid ..).2.1
  · rw [effect_tlbgr_valid hidx (not_markedInvalid (c := .guest) hok)] at hw
    cases hw
    exact (loadEntry_updateRid ..).2.1

/-- TLBR in guest mode writes no `GuestCtl1` and hides another guest's entry. -/
theorem tlbr_guest_next {u t : State} (hguest : u.isGuestMode = true) (h : exec .tlbr u = .next t) :
    t.guestCtl1 = u.guestCtl1 ∧
      (u.g1 = true → (u.entry .guest (u.idx .guest)).guestId ≠ u.id → RegsHoldInvalid .guest u t) := by
  obtain ⟨-, w, hw, rfl⟩ := exec_next h
  refine ⟨(effect_of_ok hw).guestCtl1 nofun fun _ => hguest, fun hg hne => ?_⟩
  have hidx : u.idx .guest < u.tlbEntries .guest := by
    by_contra hn
    rw [instrEffect, cur_of_guest hguest, if_pos (Nat.le_of_not_lt hn)] at hw
    cases hw
  have hhide : u.gidOk u.id (u.entry .guest (u.idx .guest)) = false := by
    rw [State.gidOk, hg, beq_eq_false_iff_ne.2 hne]
    rfl
  rw [effect_tlbr_guest hguest hidx, if_pos (.inr hhide)] at hw
  cases hw
  exact loadInvalid_regs .guest u _ (advance_cp0 ..)

/-- Settles O58: pair by pair the guards and the effects agree; then what the reads do to `GuestCtl1`. -/
theorem guestTlbFamilyMirrorsTheBaseFamily : Obligations.GuestTlbFamilyMirrorsTheBaseFamily := by
  intro s u hroot hguestMode hm hc hguest htlb hcfg hdraws hg1 hgid
  have h : SameGuest s u := ⟨hroot, hguestMode, hguest, htlb, hcfg, hdraws, hg1, hgid⟩
  obtain ⟨hinv, hinvf, hp, hwi, hwr⟩ := SameGuest.effect_base hguestMode
  refine ⟨?_, ?_, fun hplace => ?_, ?_, ?_, fun hown => ?_, fun t => rid_of_tlbgr, fun t => tlbr_guest_next hguestMode⟩
  · exact h.agree_exec hm hc rfl rfl rfl (hinv ▸ h.agree_invalidation h.asidTest)
  · exact h.agree_exec hm hc rfl rfl rfl (hinvf ▸ h.agree_invalidation h.gidOk)
  · refine h.agree_exec hm hc rfl rfl rfl ?_
    rw [hp, ← h.hits, ← seenHits_of_inPlace hplace]
    exact h.agree_probe _
  · exact h.agree_exec hm hc rfl rfl rfl (hwi ▸ h.gAnd ▸ h.agree_indexedWrite _)
  · exact h.agree_exec hm hc rfl rfl rfl (hwr ▸ h.gAnd ▸ h.agree_randomWrite _)
  · exact h.agree_exec hm hc rfl rfl rfl (h.agree_read hown)

end Sys2Proof.Machine
end
